-- ==== Sys2Proof/Word.lean ====
section
/-! DEFINITION. The bit-vector types of the block: bytes, pixel words, phase codes and the widths of its registers. -/

namespace Sys2Proof

/-- One source byte, `F-LUMA` or half of `F-VU` (30_encoding R61, R62), and one byte of the view of `DST` (R48). -/
abbrev Byte := BitVec 8

/-- One output pixel, `F-PIXEL`, 0xAABBGGRR (R63). -/
abbrev Pixel := BitVec 32

/-- The 5-bit `F-PHASE` operation code of the sequencer (R20, R70). -/
abbrev PhaseCode := BitVec 5

/-- A bias-corrected chroma operand, 8 bits two's complement (R26). -/
abbrev Chroma := BitVec 8

/-- A bias-corrected luma operand, 8 bits unsigned (R25). -/
abbrev Luma := BitVec 8

/-- An unclamped matrix output, 21 bits two's complement (R27). -/
abbrev Sum := BitVec 21

/-- A clamped channel value, 18 bits unsigned (R28). -/
abbrev Channel := BitVec 18

end Sys2Proof
end

