-- ==== Sys2Proof/Config.lean ====
section
/-! DEFINITION. The implementation parameter the spec leaves open and the constants it wires into the datapath. -/

namespace Sys2Proof.Config

/-- `DIM_BITS`, the width of `WIDTH`, `HEIGHT`, `row` and `col`: OPEN in the spec (R5, D3, U11), a parameter of the
model. It has no body, so a statement about it holds for every width. Log 3. -/
opaque dimBits : Nat

/-- `IDX_BITS = 2*DIM_BITS + 1`, the width of `yIndex`, `uvCursor`, `SRC_LEN` and `DST_LEN` (R5). -/
def idxBits : Nat := 2 * dimBits + 1

/-- The luma bias (R64, R104). -/
@[simp] def lumaBias : Int := 16

/-- The chroma bias (R64, R103). -/
@[simp] def chromaBias : Int := 128

/-- The luma coefficient of all three channels (R116). -/
@[simp] def coefY : Int := 1192

/-- The magnitude of the V term of R (R116). -/
@[simp] def coefRV : Int := 1634

/-- The magnitude of the V term of G (R116). -/
@[simp] def coefGV : Int := 833

/-- The magnitude of the U term of G (R116). -/
@[simp] def coefGU : Int := 400

/-- The magnitude of the U term of B (R116). -/
@[simp] def coefBU : Int := 2066

/-- The upper clamp bound, 2^18 - 1 (R117). -/
@[simp] def clampMax : Int := 262143

/-- The constant alpha lane (R126, R129). -/
@[simp] def alpha : Byte := 0xFF

/-- `FMT_RGBA8888`, the one destination format code the block accepts (R13; D4). -/
@[simp] def fmtRgba8888 : BitVec 8 := 1

/-- `START`, the one command code (R17, R67). -/
@[simp] def cmdStart : BitVec 8 := 1

end Sys2Proof.Config
end

