-- ==== Sys2Proof/Syntax.lean ====
section
/-! DEFINITION. The operations of the block: one constructor per row of spec/opcode_table.json. -/

namespace Sys2Proof

/-- The nineteen phases of R70, in the order of their codes, and the host-level command `CONVERT` (R67, R80). No
operation has an operand of its own: every operand is a named register (R70, R74). -/
inductive Instr where
  | idle
  | qinfo
  | chkfmt
  | chkdim
  | lockdst
  | pinsrc
  | chklen
  | framestart
  | rowstart
  | ldvu
  | ldy
  | matrix
  | clamp
  | pack
  | stpix
  | next
  | unpin
  | unlock
  | ret
  | convert
  deriving DecidableEq, Repr

end Sys2Proof
end

