-- ==== Sys2Proof/Decode.lean ====
section
/-! DEFINITION. The codes of R67 and R70, the decoder of both formats, the encoder, and the host's view of a table word. -/

namespace Sys2Proof

/-! The phase codes of R70, by name. -/

abbrev Phase.idle : PhaseCode := 0#5
abbrev Phase.qinfo : PhaseCode := 1#5
abbrev Phase.chkfmt : PhaseCode := 2#5
abbrev Phase.chkdim : PhaseCode := 3#5
abbrev Phase.lockdst : PhaseCode := 4#5
abbrev Phase.pinsrc : PhaseCode := 5#5
abbrev Phase.chklen : PhaseCode := 6#5
abbrev Phase.framestart : PhaseCode := 7#5
abbrev Phase.rowstart : PhaseCode := 8#5
abbrev Phase.ldvu : PhaseCode := 9#5
abbrev Phase.ldy : PhaseCode := 10#5
abbrev Phase.matrix : PhaseCode := 11#5
abbrev Phase.clamp : PhaseCode := 12#5
abbrev Phase.pack : PhaseCode := 13#5
abbrev Phase.stpix : PhaseCode := 14#5
abbrev Phase.next : PhaseCode := 15#5
abbrev Phase.unpin : PhaseCode := 16#5
abbrev Phase.unlock : PhaseCode := 17#5
abbrev Phase.ret : PhaseCode := 18#5

/-- An encoded operation: a 5-bit phase (`F-PHASE`) or a byte written to `CMD` (`F-CMD`) (R60, R76). -/
inductive Code where
  | phase (p : PhaseCode)
  | cmd (b : BitVec 8)
  deriving DecidableEq, Repr

/-- Why a code names no operation. -/
inductive DecodeError where
  /-- `PHASE` 19 to 31: reserved, unreachable (R70, R72). -/
  | reservedPhase (p : PhaseCode)
  /-- A `CMD` byte other than 0x01: reserved, ignored by the block (R67, R72). -/
  | reservedCommand (b : BitVec 8)
  deriving DecidableEq, Repr

/-- The phase table of R70, total on 5-bit values: 19 to 31 are reserved (R76). -/
def decodePhase (p : PhaseCode) : Except DecodeError Instr :=
  match p.toNat with
  | 0 => .ok .idle
  | 1 => .ok .qinfo
  | 2 => .ok .chkfmt
  | 3 => .ok .chkdim
  | 4 => .ok .lockdst
  | 5 => .ok .pinsrc
  | 6 => .ok .chklen
  | 7 => .ok .framestart
  | 8 => .ok .rowstart
  | 9 => .ok .ldvu
  | 10 => .ok .ldy
  | 11 => .ok .matrix
  | 12 => .ok .clamp
  | 13 => .ok .pack
  | 14 => .ok .stpix
  | 15 => .ok .next
  | 16 => .ok .unpin
  | 17 => .ok .unlock
  | 18 => .ok .ret
  | _ => .error (.reservedPhase p)

/-- The command table of R67: 0x01 is `START`, the encoding of `CONVERT` (R76, R80); the rest is reserved. -/
def decodeCommand (b : BitVec 8) : Except DecodeError Instr :=
  if b = Config.cmdStart then .ok .convert else .error (.reservedCommand b)

/-- The decoder of both formats, total. -/
def decode : Code → Except DecodeError Instr
  | .phase p => decodePhase p
  | .cmd b => decodeCommand b

/-- The code of each operation, from the tables of R67 and R70. -/
def encode : Instr → Code
  | .idle => .phase Phase.idle
  | .qinfo => .phase Phase.qinfo
  | .chkfmt => .phase Phase.chkfmt
  | .chkdim => .phase Phase.chkdim
  | .lockdst => .phase Phase.lockdst
  | .pinsrc => .phase Phase.pinsrc
  | .chklen => .phase Phase.chklen
  | .framestart => .phase Phase.framestart
  | .rowstart => .phase Phase.rowstart
  | .ldvu => .phase Phase.ldvu
  | .ldy => .phase Phase.ldy
  | .matrix => .phase Phase.matrix
  | .clamp => .phase Phase.clamp
  | .pack => .phase Phase.pack
  | .stpix => .phase Phase.stpix
  | .next => .phase Phase.next
  | .unpin => .phase Phase.unpin
  | .unlock => .phase Phase.unlock
  | .ret => .phase Phase.ret
  | .convert => .cmd Config.cmdStart

/-- Which code a table word of `nbits` bits is. The table has two formats and says nothing in the word of which it is:
an 8-bit word that matches the whole-byte row (mask 0xFF, R76) is that command, any other word is a phase in its low
five bits (mask 0x1F, R76). DESIGN CHOICE, log 9: the word 0x01 is the one both rows `QINFO` and `CONVERT` match. -/
def tableCode (nbits w : Nat) : Code :=
  if nbits = 8 ∧ w % 256 = 1 then .cmd (BitVec.ofNat 8 w) else .phase (BitVec.ofNat 5 w)

/-- The operation the decoder reads from a table word, none where it refuses. -/
def decodeTableWord (nbits w : Nat) : Option Instr :=
  match decode (tableCode nbits w) with
  | .ok i => some i
  | .error _ => none

end Sys2Proof
end

