-- ==== Sys2Proof/Machine/State.lean ====
section
/-! DEFINITION. The state of the block, the host's moves, the event history, the reasons a step can stop, and reset. -/

namespace Sys2Proof.Machine

/-- One space (`SRC`, or the byte view of `DST`) as cells in rising order of index, none equal to what an unlisted
index reads as; `Memory.wf` of Machine/Ops.lean says so. -/
abbrev Memory := List Host.Cell

/-- The host-visible control registers `CR0` to `CR7` (R10 to R18), in the order of their numbers. -/
inductive CReg where
  | width | height | dstFormat | srcLen | dstLen | hostRsp | cmd | status
  deriving DecidableEq, Repr

/-- One host write of a control register, the value at the register's own width (R66 to R69). The four dimension and
length registers have the widths `DIM_BITS` and `IDX_BITS`; `HostMove.Fits` of WellFormed.lean says a value fits. -/
inductive CRWrite where
  | width (v : Nat)
  | height (v : Nat)
  | dstFormat (v : BitVec 8)
  | srcLen (v : Nat)
  | dstLen (v : Nat)
  | hostRsp (v : BitVec 3)
  | cmd (v : BitVec 8)
  | status (v : BitVec 8)
  deriving DecidableEq, Repr

/-- What the host may do while the block is in `IDLE` (R19, R81, R93, R155). The model's own type, log 4. -/
inductive HostMove where
  /-- write a control register (R11 to R18) -/
  | write (w : CRWrite)
  /-- read a control register (R11 to R18) -/
  | read (r : CReg)
  /-- put another source buffer at the `SRC` port: its bytes from index 0 (R93, R157 items 4 and 6) -/
  | attachSrc (bytes : List Byte)
  /-- put another destination buffer at the `DST` port: its slots from slot 0 (R93, R157 item 4) -/
  | attachDst (slots : List Pixel)
  /-- assert reset; offered between calls only (R155, R156) -/
  | reset
  deriving DecidableEq, Repr

/-- One entry of the event history (R54, R74, R164). `crRead` is the model's own: the value a host read returned. -/
inductive Event where
  | rd (i : Nat)
  | wr (p : Nat) (w : Pixel)
  | acqDst
  | acqSrc
  | relSrc
  | relDst
  | crRead (r : CReg) (v : Nat)
  deriving DecidableEq, Repr

/-- The registers that can hold `none` (R8, R24), to name the one a micro-operation found empty. -/
inductive Reg where
  | row | col | yIndex | uvCursor | yb | ub | vb | rm | gm | bm | rk | gk | bk | pix | uvValid
  deriving DecidableEq, Repr

/-- The six failure kinds of R136: outcomes of a call, reported in `STATUS.RESULT`, not faults of the model. -/
inductive FailureKind where
  | surfaceInfoUnavailable
  | unsupportedPixelFormat
  | surfaceLockFailed
  | sourceUnavailable
  | invalidDimensions
  | bufferSizeMismatch
  deriving DecidableEq, Repr

/-- The conditions that have no meaning in the block and that the spec asks a model to give a fault of its own: the four of
R150, and a reserved `RESULT` (D31, U10). None is reachable. -/
inductive Fault where
  /-- A micro-operation reads a register that holds `none`, or `MATRIX` runs with `UV_VALID` not 1 (R8, R24, R150; D24, U14).
  Raised by `ROWSTART`, `LDVU`, `LDY`, `MATRIX`, `CLAMP`, `PACK`, `STPIX`, `NEXT`. Safe: the model stops. -/
  | noValue (r : Reg)
  /-- `SrcRead` out of range (of `SRC_LEN` or of the attached buffer) or with `SRC_HELD = 0` (R46, R150; R161, log 23).
  Raised by `LDVU`, `LDY`. Safe: the model stops. -/
  | badSrcRead (i : Nat)
  /-- `DstWrite` out of range (of `DST_LEN` or of the attached buffer) or with `DST_HELD = 0` (R47, R150; R161, log 23).
  Raised by `STPIX`. Safe: the model stops. -/
  | badDstWrite (p : Nat)
  /-- `PHASE` holds a reserved code, 19 to 31 (R72, R150). Raised by the step's decoder. Safe: the model stops. -/
  | reservedPhase (p : PhaseCode)
  /-- `RESULT` holds a reserved code, 7 to 15, where it is met (D31, U10, R72). Raised by `RET`, which returns it, and by
  a host read of `STATUS`. Safe: the model stops. -/
  | reservedResult (r : BitVec 4)
  deriving DecidableEq, Repr

/-- Why a step has no meaning. -/
inductive Refusal where
  /-- An operation with no meaning yet; no arm of `exec` answers so. Safe: the model stops. -/
  | notModelled (mnemonic : String)
  /-- A `START` while a call runs: the host has no such move, "a model gives it no step" (R72, R81, U10). Raised by
  `CONVERT` outside `IDLE`; no step of the machine reaches it. Safe: the model stops. Log 11. -/
  | startWhileBusy
  /-- A `START` with `SRC_LEN` or `DST_LEN` larger than the attached buffer: "refuse: the model's buffers have exactly
  the declared lengths, so the case cannot be built" (U6, R161). Raised by `CONVERT`. Safe: the model stops. Log 23. -/
  | untruthfulDescriptor
  deriving DecidableEq, Repr

/-- The whole state of the block (R10), the two spaces of the host (R33, R40), and the model's own fields. A
register the spec says can hold `none` (R8, R24, R32) is an Option, `none` being the spec's own value; log 1. -/
structure State where
  /-- `CR0 WIDTH` (R11) -/
  width : Nat
  /-- `CR1 HEIGHT` (R12) -/
  height : Nat
  /-- `CR2 DST_FORMAT` (R13) -/
  dstFormat : BitVec 8
  /-- `CR3 SRC_LEN` (R14) -/
  srcLen : Nat
  /-- `CR4 DST_LEN` (R15) -/
  dstLen : Nat
  /-- `CR5 HOSTRSP` (R16) -/
  hostRsp : BitVec 3
  /-- `CR7 STATUS` (R18) -/
  status : BitVec 8
  /-- `PHASE` (R20) -/
  phase : PhaseCode
  /-- the luma row (R21) -/
  row : Option Nat
  /-- the pixel column (R21) -/
  col : Option Nat
  /-- the luma index and destination slot (R22) -/
  yIndex : Option Nat
  /-- the chroma cursor (R23) -/
  uvCursor : Option Nat
  /-- `Yb` (R25) -/
  yb : Option Luma
  /-- `Ub` (R26) -/
  ub : Option Chroma
  /-- `Vb` (R26) -/
  vb : Option Chroma
  /-- `Rm` (R27) -/
  rm : Option Sum
  /-- `Gm` (R27) -/
  gm : Option Sum
  /-- `Bm` (R27) -/
  bm : Option Sum
  /-- `Rk` (R28) -/
  rk : Option Channel
  /-- `Gk` (R28) -/
  gk : Option Channel
  /-- `Bk` (R28) -/
  bk : Option Channel
  /-- `PIX` (R29) -/
  pix : Option Pixel
  /-- `DST_HELD` (R30) -/
  dstHeld : Bool
  /-- `SRC_HELD` (R30) -/
  srcHeld : Bool
  /-- `UV_VALID` (R24, R30) -/
  uvValid : Option Bool
  /-- the source space (R40 to R43) -/
  src : Memory
  /-- the destination space, as bytes: slot p is offsets 4p to 4p+3 (R45, R48) -/
  dst : Memory
  /-- the number of readable bytes of the buffer at the `SRC` port (R14, R157, R161; log 23) -/
  srcSize : Nat
  /-- the number of writable slots of the buffer at the `DST` port (R15, R157, R161; log 23) -/
  dstSize : Nat
  /-- the model's own: the host's pending moves, next first (log 4) -/
  host : List HostMove
  /-- the model's own: the event history, oldest first (R54, R164; log 5) -/
  events : List Event
  deriving DecidableEq, Repr

/-- The machine right after reset (R32, R155): `PHASE = IDLE`, `STATUS = 0x00`, both `HELD` flags 0, every register
R32 lists as `none` holding `none`. The six descriptor registers, unspecified by R32, hold 0 (DESIGN CHOICE, log 2);
no buffer is attached to either port (logs 6, 23); the host has no pending move and the history is empty (logs 4, 5). -/
def State.reset : State where
  width := 0
  height := 0
  dstFormat := 0
  srcLen := 0
  dstLen := 0
  hostRsp := 0
  status := 0
  phase := 0
  row := none
  col := none
  yIndex := none
  uvCursor := none
  yb := none
  ub := none
  vb := none
  rm := none
  gm := none
  bm := none
  rk := none
  gk := none
  bk := none
  pix := none
  dstHeld := false
  srcHeld := false
  uvValid := none
  src := []
  dst := []
  srcSize := 0
  dstSize := 0
  host := []
  events := []

end Sys2Proof.Machine
end

