-- ==== Sys2Proof/Machine/Flags.lean ====
section
/-! DEFINITION. The fields of `STATUS` and `HOSTRSP`, the derived column parity, and the three flags. -/

namespace Sys2Proof.Machine

/-- `STATUS[3:0]`, `RESULT` (R18, R68). -/
def statusResult (w : BitVec 8) : BitVec 4 := w.extractLsb' 0 4

/-- `STATUS[4]`, `DONE` (R18, R68). -/
def statusDone (w : BitVec 8) : Bool := w.getLsbD 4

/-- `STATUS` with `RESULT` replaced; no other bit changes. -/
def statusWithResult (w : BitVec 8) (r : BitVec 4) : BitVec 8 := (w &&& 0xF0) ||| r.setWidth 8

/-- `STATUS` with `DONE` replaced; no other bit changes. -/
def statusWithDone (w : BitVec 8) (d : Bool) : BitVec 8 := (w &&& 0xEF) ||| (if d then 0x10 else 0)

/-- What the host reads of `STATUS`: bits 7 to 5 read as 0 (R18, R68). -/
def statusRead (w : BitVec 8) : BitVec 8 := w &&& 0x1F

/-- `STATUS.RESULT` of a state. -/
def State.result (s : State) : BitVec 4 := statusResult s.status

/-- `STATUS.DONE` of a state. -/
def State.done (s : State) : Bool := statusDone s.status

/-- `HostReply.INFO_OK = HOSTRSP[0]` (R16, R82). -/
def State.infoOk (s : State) : Bool := s.hostRsp.getLsbD 0

/-- `HostReply.LOCK_OK = HOSTRSP[1]` (R16, R82). -/
def State.lockOk (s : State) : Bool := s.hostRsp.getLsbD 1

/-- `HostReply.SRC_OK = HOSTRSP[2]` (R16, R82). -/
def State.srcOk (s : State) : Bool := s.hostRsp.getLsbD 2

/-- Bit 0 of a natural is 0 (R6, R30: `col[0]`, the chroma-refetch toggle; R85: `WIDTH[0]`, `HEIGHT[0]`). -/
def bit0Clear (n : Nat) : Bool := decide (n % 2 = 0)

end Sys2Proof.Machine
end

