-- ==== Sys2Proof/Machine/Operands.lean ====
section
/-! DEFINITION. Reading an implicit register operand, and turning a source byte into an operand (R64). -/

namespace Sys2Proof.Machine

/-- The value of a register operand; a register that holds `none` has no value to read, and the spec orders a
fault of the model there, "never a value" (R8, R24, R150 row 1; D24; U14: "the model stops with an error"). -/
def readReg {α : Type} (r : Reg) : Option α → Except Fault α
  | some v => .ok v
  | none => .error (.noValue r)

/-- A chroma byte as an operand: the natural it spells less 128, in 8 bits two's complement (R26, R64, R103). -/
def chromaOperand (b : Byte) : Chroma := BitVec.ofInt 8 ((b.toNat : Int) - Config.chromaBias)

/-- A luma byte as an operand: the natural it spells less 16, floored at 0 (R25, R64, R104). -/
def lumaOperand (b : Byte) : Luma := BitVec.ofInt 8 (max ((b.toNat : Int) - Config.lumaBias) 0)

end Sys2Proof.Machine
end

