-- ==== Sys2Proof/Machine/Ops.lean ====
section
/-! DEFINITION. The operations every meaning shares: the two spaces and their primitives, START, `fail` and the return. -/

namespace Sys2Proof.Machine

/-! The cells of a space. -/

/-- What an index no cell lists reads as. A space lists no byte of this value, so that one content has one form; an index
beyond the attached buffer is not read at all (`State.srcRead`). Log 6. -/
def Memory.blank : Byte := 0

/-- The byte at an index. -/
def Memory.read : Memory → Nat → Byte
  | [], _ => Memory.blank
  | (k, b) :: rest, a => if k = a then b else Memory.read rest a

/-- The cells but for the one at an index. -/
def Memory.erase (m : Memory) (a : Nat) : Memory := m.filter fun c => decide (c.1 ≠ a)

/-- The cells with one more, in order of index. -/
def Memory.insert : Memory → Nat → Byte → Memory
  | [], a, b => [(a, b)]
  | (k, c) :: rest, a, b => if a < k then (a, b) :: (k, c) :: rest else (k, c) :: Memory.insert rest a b

/-- The space with one byte replaced, in the one canonical form. -/
def Memory.write (m : Memory) (a : Nat) (b : Byte) : Memory :=
  if b = Memory.blank then Memory.erase m a else Memory.insert (Memory.erase m a) a b

/-- The canonical form: indices strictly rising, and no cell equal to what an unlisted index reads as. -/
abbrev Memory.wf (m : Memory) : Prop := m.Pairwise (fun c d => c.1 < d.1) ∧ ∀ c ∈ m, c.2 ≠ Memory.blank

/-- The space that holds the given bytes from an index on, and nothing else. -/
def Memory.ofBytes : Nat → List Byte → Memory
  | _, [] => []
  | a, b :: bs => if b = Memory.blank then Memory.ofBytes (a + 1) bs else (a, b) :: Memory.ofBytes (a + 1) bs

/-- Byte `k` (0 lowest) of a pixel word: R, G, B, A for k = 0, 1, 2, 3 (R48). -/
def pixelByte (w : Pixel) (k : Nat) : Byte := w.extractLsb' (8 * k) 8

/-- The four bytes of a pixel word as they lie in `DST`, lowest offset first (R48). -/
def pixelBytes (w : Pixel) : List Byte := [pixelByte w 0, pixelByte w 1, pixelByte w 2, pixelByte w 3]

/-- The byte offset of a slot (R48). -/
def slotOffset (p : Nat) : Nat := 4 * p

/-- The space that holds the given slots from slot 0 on, as bytes (R48). -/
def Memory.ofSlots (ws : List Pixel) : Memory := Memory.ofBytes 0 (ws.flatMap pixelBytes)

/-- The word in slot `p`, its lowest byte at the lowest offset (R48). -/
def Memory.slot (m : Memory) (p : Nat) : Pixel :=
  m.read (slotOffset p + 3) ++ m.read (slotOffset p + 2) ++ m.read (slotOffset p + 1) ++ m.read (slotOffset p)

/-- The space with the whole slot `p` replaced: four bytes, little-endian (R47, R48). -/
def Memory.writeSlot (m : Memory) (p : Nat) (w : Pixel) : Memory :=
  (((m.write (slotOffset p) (pixelByte w 0)).write (slotOffset p + 1) (pixelByte w 1)).write
    (slotOffset p + 2) (pixelByte w 2)).write (slotOffset p + 3) (pixelByte w 3)

/-! The event history and the two primitives of the spaces. -/

/-- The state with one more event, the latest last (R54, R74). -/
def State.log (s : State) (e : Event) : State := { s with events := s.events ++ [e] }

/-- `SrcRead(i)`: the byte at index `i`, defined only while `SRC_HELD = 1` and below `SRC_LEN` (R46), and here inside the
attached buffer (R161; DEDUCED, log 23); its event is `RD i` (R74). -/
def State.srcRead (s : State) (i : Nat) : Except Fault (Byte × State) :=
  if s.srcHeld = true ∧ i < s.srcLen ∧ i < s.srcSize then .ok (s.src.read i, s.log (.rd i)) else .error (.badSrcRead i)

/-- `DstWrite(p, w)`: the whole slot `p` replaced, defined only while `DST_HELD = 1` and below `DST_LEN` (R47),
and here inside the attached buffer (R161; DEDUCED, log 23); its event is `WR p w` (R74). -/
def State.dstWrite (s : State) (p : Nat) (w : Pixel) : Except Fault State :=
  if s.dstHeld = true ∧ p < s.dstLen ∧ p < s.dstSize then .ok ({ s with dst := s.dst.writeSlot p w }.log (.wr p w))
  else .error (.badDstWrite p)

/-- The outcome of a meaning that can meet a fault of the model (R150). -/
def settle : Except Fault State → Host.Outcome State Fault Refusal
  | .ok s => .next s
  | .error f => .fault f

/-! `PHASE <- X`, START, a failure, and the return. -/

/-- `PHASE <- p`, the sequencer's control transfer (R7, R20). -/
def State.goto (s : State) (p : PhaseCode) : State := { s with phase := p }

/-- The code of a failure kind in `STATUS.RESULT` (R68, R136). -/
def FailureKind.code : FailureKind → BitVec 4
  | .surfaceInfoUnavailable => 1
  | .unsupportedPixelFormat => 2
  | .surfaceLockFailed => 3
  | .sourceUnavailable => 4
  | .invalidDimensions => 5
  | .bufferSizeMismatch => 6

/-- The head of the release path appropriate to what is held where the kind is raised (the table of R139). -/
def FailureKind.releaseHead : FailureKind → PhaseCode
  | .surfaceInfoUnavailable | .unsupportedPixelFormat | .invalidDimensions | .surfaceLockFailed => Phase.ret
  | .sourceUnavailable => Phase.unlock
  | .bufferSizeMismatch => Phase.unpin

/-- `fail <Kind>`, the block's taking of an exception: `STATUS.RESULT <- code(Kind)`, then `PHASE` to the head of the
release path; no other register is altered (R7, R139). -/
def State.fail (s : State) (k : FailureKind) : State :=
  { s with status := statusWithResult s.status k.code, phase := k.releaseHead }

/-- The return to the host: `STATUS.DONE <- 1`, `PHASE <- IDLE`; there is nothing to restore (R91, R143). -/
def State.returnToHost (s : State) : State := { s with status := statusWithDone s.status true, phase := Phase.idle }

/-- `RESULT` where it is met as an outcome: the codes 7 to 15 are a fault of the model (D31, U10). -/
def State.readResult (s : State) : Except Fault (BitVec 4) :=
  if s.result.toNat ≤ 6 then .ok s.result else .error (.reservedResult s.result)

/-- `START`: `RESULT <- 0`, `DONE <- 0`, `PHASE <- QINFO` (R81). -/
def State.start (s : State) : State :=
  { s with status := statusWithDone (statusWithResult s.status 0) false, phase := Phase.qinfo }

/-- The declared lengths exceed neither attached buffer (R157 item 3, R161). -/
abbrev State.Truthful (s : State) : Prop := s.srcLen ≤ s.srcSize ∧ s.dstLen ≤ s.dstSize

/-- A write of `START`: the call begins, if the descriptor describes the attached buffers; the host has no other such move
(R93, R161; U6). -/
def State.beginCall (s : State) : Host.Outcome State Fault Refusal :=
  if s.Truthful then .next s.start else .refused .untruthfulDescriptor

end Sys2Proof.Machine
end

