-- ==== Sys2Proof/Machine/HostPort.lean ====
section
/-! DEFINITION. The host's side: reads and writes of the control registers, buffer changes, reset, the pending moves. -/

namespace Sys2Proof.Machine

/-- What a host read of a control register returns: the register, but `CMD` reads 0 (R17) and the reserved bits of
`STATUS` read 0 (R18). A reserved `RESULT` is a fault of the model (D31, U10). -/
def State.crRead (s : State) : CReg → Except Fault Nat
  | .width => .ok s.width
  | .height => .ok s.height
  | .dstFormat => .ok s.dstFormat.toNat
  | .srcLen => .ok s.srcLen
  | .dstLen => .ok s.dstLen
  | .hostRsp => .ok s.hostRsp.toNat
  | .cmd => .ok 0
  | .status => do
    let _ ← s.readResult
    .ok (statusRead s.status).toNat

/-- A host write of a control register: `CMD` begins a call on 0x01 and ignores the rest (R17, R67); a write of
`STATUS` has no effect (R18). -/
def State.crWrite (s : State) : CRWrite → Host.Outcome State Fault Refusal
  | .width v => .next { s with width := v }
  | .height v => .next { s with height := v }
  | .dstFormat v => .next { s with dstFormat := v }
  | .srcLen v => .next { s with srcLen := v }
  | .dstLen v => .next { s with dstLen := v }
  | .hostRsp v => .next { s with hostRsp := v }
  | .cmd v => if v = Config.cmdStart then s.beginCall else .next s
  | .status _ => .next s

/-- Reset: the block's registers take the values of `State.reset`; the attached buffers are untouched (R32, R155), and so
are the model's own fields. -/
def State.resetBlock (s : State) : State :=
  { State.reset with
    src := s.src, dst := s.dst, srcSize := s.srcSize, dstSize := s.dstSize, host := s.host, events := s.events }

/-- The effect of one host move. -/
def State.applyMove (s : State) : HostMove → Host.Outcome State Fault Refusal
  | .write w => s.crWrite w
  | .read r => settle do
    let v ← s.crRead r
    .ok (s.log (.crRead r v))
  | .attachSrc bs => .next { s with src := Memory.ofBytes 0 bs, srcSize := bs.length }
  | .attachDst ws => .next { s with dst := Memory.ofSlots ws, dstSize := ws.length }
  | .reset => .next s.resetBlock

/-- The next pending move takes place, if the block is in `IDLE` (the host has no move elsewhere, R19, R81) and there
is one; otherwise nothing changes: the block waits (R81). -/
def State.hostTurn (s : State) : Host.Outcome State Fault Refusal :=
  if s.phase = Phase.idle then
    match s.host with
    | [] => .next s
    | m :: ms => { s with host := ms }.applyMove m
  else .next s

/-- A host move is a write of `CMD`. -/
def HostMove.isCommand : HostMove → Bool
  | .write (.cmd _) => true
  | .write _ | .read _ | .attachSrc _ | .attachDst _ | .reset => false

/-- The command the host has pending, if its next move is a write of `CMD` (R17). -/
def State.pendingCommand (s : State) : Option (BitVec 8) :=
  match s.host with
  | .write (.cmd b) :: _ => some b
  | _ => none

/-- The state with the pending command taken: the port holds nothing (R17). -/
def State.takeCommand (s : State) : State :=
  match s.pendingCommand with
  | some _ => { s with host := s.host.tail }
  | none => s

end Sys2Proof.Machine
end

