-- ==== Sys2Proof/Machine/Convert.lean ====
section
/-! DEFINITION. Family 40: `CONVERT`, `IDLE`, validation, acquisition, release and return (R80 to R91). -/

namespace Sys2Proof.Machine

/-- `IDLE` (R81): the block changes nothing and waits; the host's next move, if it has one, takes place. -/
def execIdle (s : State) : Host.Outcome State Fault Refusal := s.hostTurn

/-- `CONVERT` (R80, R81): the command `START`, taken in `IDLE`; the phases that follow are the run it stands for (R70,
R75; log 8). A descriptor that exceeds an attached buffer is refused (U6; log 23). Outside `IDLE` the host has no such
move (R72; log 11). -/
def execConvert (s : State) : Host.Outcome State Fault Refusal :=
  if s.phase = Phase.idle then s.takeCommand.beginCall else .refused .startWhileBusy

/-- `QINFO` (R83). -/
def execQinfo (s : State) : Host.Outcome State Fault Refusal :=
  .next (if s.infoOk then s.goto Phase.chkfmt else s.fail .surfaceInfoUnavailable)

/-- `CHKFMT` (R84). -/
def execChkfmt (s : State) : Host.Outcome State Fault Refusal :=
  .next (if s.dstFormat = Config.fmtRgba8888 then s.goto Phase.chkdim else s.fail .unsupportedPixelFormat)

/-- `CHKDIM` (R85). -/
def execChkdim (s : State) : Host.Outcome State Fault Refusal :=
  .next (if bit0Clear s.width && bit0Clear s.height then s.goto Phase.lockdst else s.fail .invalidDimensions)

/-- `LOCKDST` (R86). -/
def execLockdst (s : State) : Host.Outcome State Fault Refusal :=
  .next (if s.lockOk then ({ s with dstHeld := true }.log .acqDst).goto Phase.pinsrc else s.fail .surfaceLockFailed)

/-- `PINSRC` (R87). -/
def execPinsrc (s : State) : Host.Outcome State Fault Refusal :=
  .next (if s.srcOk then ({ s with srcHeld := true }.log .acqSrc).goto Phase.chklen else s.fail .sourceUnavailable)

/-- `planeSize`, the value `WIDTH*HEIGHT`: no register, constant during a call (R23, R88). -/
def State.planeSize (s : State) : Nat := s.width * s.height

/-- `CHKLEN` (R88). -/
def execChklen (s : State) : Host.Outcome State Fault Refusal :=
  .next (if s.dstLen = s.planeSize ∧ s.planeSize + s.planeSize / 2 ≤ s.srcLen then s.goto Phase.framestart
    else s.fail .bufferSizeMismatch)

/-- `UNPIN` (R89). -/
def execUnpin (s : State) : Host.Outcome State Fault Refusal :=
  .next (({ s with srcHeld := false }.log .relSrc).goto Phase.unlock)

/-- `UNLOCK` (R90). -/
def execUnlock (s : State) : Host.Outcome State Fault Refusal :=
  .next (({ s with dstHeld := false }.log .relDst).goto Phase.ret)

/-- `RET` (R91, R143). The outcome it returns is a code the spec assigns; a reserved one is a fault of the model (D31). -/
def execRet (s : State) : Host.Outcome State Fault Refusal :=
  settle do
    let _ ← s.readResult
    .ok s.returnToHost

end Sys2Proof.Machine
end

