-- ==== Sys2Proof/Machine/Matrix.lean ====
section
/-! DEFINITION. Family 42: the colour matrix and the clamp (R115 to R120). -/

namespace Sys2Proof.Machine

/-! The three sums of R116. The SIGNS stand here and nowhere else: the spec takes them from general knowledge and asks
that they be kept in one place (R116, D9; log 15). -/

/-- `1192*Yb + 1634*Vb` (R116). -/
def matrixR (yb vb : Int) : Int := Config.coefY * yb + Config.coefRV * vb

/-- `1192*Yb - 833*Vb - 400*Ub` (R116). -/
def matrixG (yb ub vb : Int) : Int := Config.coefY * yb - Config.coefGV * vb - Config.coefGU * ub

/-- `1192*Yb + 2066*Ub` (R116). -/
def matrixB (yb ub : Int) : Int := Config.coefY * yb + Config.coefBU * ub

/-- `clamp(x, 0, 262143)` (R7, R117). -/
def clampChannel (x : Int) : Int := min (max x 0) Config.clampMax

/-- `MATRIX` (R116), with its precondition `UV_VALID = 1`, whose breach R150 row 1 makes a fault of the model (R24, R30).
The sums are computed as integers and fit the 21-bit registers for every content of `Yb`, `Ub`, `Vb`. -/
def execMatrix (s : State) : Host.Outcome State Fault Refusal :=
  if s.uvValid = some true then
    settle do
      let yb ← readReg .yb s.yb
      let vb ← readReg .vb s.vb
      let ub ← readReg .ub s.ub
      .ok ({ s with
        rm := some (BitVec.ofInt 21 (matrixR yb.toNat vb.toInt)),
        gm := some (BitVec.ofInt 21 (matrixG yb.toNat ub.toInt vb.toInt)),
        bm := some (BitVec.ofInt 21 (matrixB yb.toNat ub.toInt)) }.goto Phase.clamp)
  else .fault (.noValue .uvValid)

/-- `CLAMP` (R117): each channel on its own. -/
def execClamp (s : State) : Host.Outcome State Fault Refusal :=
  settle do
    let rm ← readReg .rm s.rm
    let gm ← readReg .gm s.gm
    let bm ← readReg .bm s.bm
    .ok ({ s with
      rk := some (BitVec.ofInt 18 (clampChannel rm.toInt)),
      gk := some (BitVec.ofInt 18 (clampChannel gm.toInt)),
      bk := some (BitVec.ofInt 18 (clampChannel bm.toInt)) }.goto Phase.pack)

end Sys2Proof.Machine
end

