-- ==== Sys2Proof/Machine/Packer.lean ====
section
/-! DEFINITION. Family 43: the packer and the pixel store (R125 to R130). -/

namespace Sys2Proof.Machine

/-- The 8-bit lane of a clamped channel: bits 17 to 10, truncated, the same for all three (R126; 90_conflicts C1). -/
def lane (k : Channel) : Byte := k.extractLsb' 10 8

/-- The packed word `0xFF ++ B8 ++ G8 ++ R8` (R63, R126). -/
def packWord (rk gk bk : Channel) : Pixel := Config.alpha ++ lane bk ++ lane gk ++ lane rk

/-- `PACK` (R126). -/
def execPack (s : State) : Host.Outcome State Fault Refusal :=
  settle do
    let rk ← readReg .rk s.rk
    let gk ← readReg .gk s.gk
    let bk ← readReg .bk s.bk
    .ok ({ s with pix := some (packWord rk gk bk) }.goto Phase.stpix)

/-- `STPIX` (R128): the word to slot `yIndex`, which is not advanced here. -/
def execStpix (s : State) : Host.Outcome State Fault Refusal :=
  settle do
    let w ← readReg .pix s.pix
    let index ← readReg .yIndex s.yIndex
    let s1 ← s.dstWrite index w
    .ok (s1.goto Phase.next)

end Sys2Proof.Machine
end

