-- ==== Sys2Proof/Machine/Sampler.lean ====
section
/-! DEFINITION. Family 41: the sampler and the raster sequencer (R101 to R105). -/

namespace Sys2Proof.Machine

/-- `FRAMESTART` (R101). -/
def execFramestart (s : State) : Host.Outcome State Fault Refusal :=
  .next ({ s with yIndex := some 0, row := some 0 }.goto
    (if s.width = 0 ∨ s.height = 0 then Phase.unpin else Phase.rowstart))

/-- The chroma row base of a luma row: `planeSize + (row >> 1) * WIDTH` (R23, R102). -/
def State.chromaBase (s : State) (row : Nat) : Nat := s.planeSize + row / 2 * s.width

/-- `ROWSTART` (R102). `UV_VALID <- 0` marks `Ub` and `Vb` as holding `none` for the new row (R24, R26). -/
def execRowstart (s : State) : Host.Outcome State Fault Refusal :=
  settle do
    let row ← readReg .row s.row
    .ok ({ s with
      uvCursor := some (s.chromaBase row), col := some 0, uvValid := some false, ub := none, vb := none }.goto
        Phase.ldvu)

/-- `LDVU` (R103): V at the cursor, then U at the next index. -/
def execLdvu (s : State) : Host.Outcome State Fault Refusal :=
  settle do
    let cursor ← readReg .uvCursor s.uvCursor
    let (v, s1) ← s.srcRead cursor
    let (u, s2) ← s1.srcRead (cursor + 1)
    .ok ({ s2 with
      vb := some (chromaOperand v), ub := some (chromaOperand u), uvCursor := some (cursor + 2),
      uvValid := some true }.goto Phase.ldy)

/-- `LDY` (R104). -/
def execLdy (s : State) : Host.Outcome State Fault Refusal :=
  settle do
    let index ← readReg .yIndex s.yIndex
    let (y, s1) ← s.srcRead index
    .ok ({ s1 with yb := some (lumaOperand y) }.goto Phase.matrix)

/-- `NEXT` (R105): the counters advance, then the loop's only choice, on their new values. -/
def execNext (s : State) : Host.Outcome State Fault Refusal :=
  settle do
    let index ← readReg .yIndex s.yIndex
    let col ← readReg .col s.col
    let s1 := { s with yIndex := some (index + 1), col := some (col + 1) }
    if col + 1 = s.width then
      let row ← readReg .row s.row
      .ok ({ s1 with row := some (row + 1) }.goto
        (if row + 1 = s.height then Phase.unpin else Phase.rowstart))
    else
      .ok (s1.goto (if bit0Clear (col + 1) then Phase.ldvu else Phase.ldy))

end Sys2Proof.Machine
end

