-- ==== Sys2Proof/Machine/Dispatch.lean ====
section
/-! DEFINITION. One arm per operation, each a direct call of its meaning. -/

namespace Sys2Proof.Machine

def exec (i : Instr) (s : State) : Host.Outcome State Fault Refusal :=
  match i with
  | .idle => Sys2Proof.Machine.execIdle s
  | .qinfo => Sys2Proof.Machine.execQinfo s
  | .chkfmt => Sys2Proof.Machine.execChkfmt s
  | .chkdim => Sys2Proof.Machine.execChkdim s
  | .lockdst => Sys2Proof.Machine.execLockdst s
  | .pinsrc => Sys2Proof.Machine.execPinsrc s
  | .chklen => Sys2Proof.Machine.execChklen s
  | .framestart => Sys2Proof.Machine.execFramestart s
  | .rowstart => Sys2Proof.Machine.execRowstart s
  | .ldvu => Sys2Proof.Machine.execLdvu s
  | .ldy => Sys2Proof.Machine.execLdy s
  | .matrix => Sys2Proof.Machine.execMatrix s
  | .clamp => Sys2Proof.Machine.execClamp s
  | .pack => Sys2Proof.Machine.execPack s
  | .stpix => Sys2Proof.Machine.execStpix s
  | .next => Sys2Proof.Machine.execNext s
  | .unpin => Sys2Proof.Machine.execUnpin s
  | .unlock => Sys2Proof.Machine.execUnlock s
  | .ret => Sys2Proof.Machine.execRet s
  | .convert => Sys2Proof.Machine.execConvert s

end Sys2Proof.Machine
end

