-- ==== Sys2Proof/Machine/Fetch.lean ====
section
/-! DEFINITION. Which code the next step runs, what a code that names no operation does, and how a table word is placed. -/

namespace Sys2Proof.Machine

/-- The code the next step runs: in `IDLE` with a write of `CMD` pending, the byte written (R17, R81); otherwise `PHASE`
(R20, R71). There is no instruction memory. -/
def State.fetch (s : State) : Code :=
  if s.phase = Phase.idle then
    match s.pendingCommand with
    | some b => .cmd b
    | none => .phase s.phase
  else .phase s.phase

/-- A code that names no operation: a reserved command is ignored, only the port's pending write is gone (R67, R72); a
reserved phase is a fault of the model (R72, R150). -/
def State.undecoded (s : State) : DecodeError → Host.Outcome State Fault Refusal
  | .reservedPhase p => .fault (.reservedPhase p)
  | .reservedCommand _ => .next s.takeCommand

/-- The state whose next step runs a given code: the phase in `PHASE`, or `IDLE` with the command pending. In `IDLE`
itself no command may be pending before it. Log 10. -/
def State.placeCode (s : State) : Code → State
  | .phase p =>
    if p = Phase.idle then { s with phase := p, host := s.host.dropWhile HostMove.isCommand } else { s with phase := p }
  | .cmd b => { s with phase := Phase.idle, host := .write (.cmd b) :: s.host }

end Sys2Proof.Machine
end

