-- ==== Sys2Proof/Machine/Step.lean ====
section
/-! DEFINITION. One step of the machine: fetch, decode, run (R71), and the placing of a table word for the host. -/

namespace Sys2Proof.Machine

/-- A step of the block: the micro-operation `PHASE` names, or the pending command in `IDLE` (R71, R81). Nothing is done
around it: each operation's own rule ends by writing `PHASE`. -/
def step (s : State) : Host.Outcome State Fault Refusal :=
  match decode s.fetch with
  | .ok i => exec i s
  | .error e => s.undecoded e

/-- The state whose next step runs the table word. -/
def State.withFetchWord (s : State) (nbits w : Nat) : State := s.placeCode (tableCode nbits w)

end Sys2Proof.Machine
end

