-- ==== Sys2Proof/Machine/Reference.lean ====
section
/-! DEFINITION. The pure functions the spec gives beside the small steps: layouts, the pixel function, the net effect of
a call and its counts. `exec` uses none of them but the three sums of R116. -/

namespace Sys2Proof.Machine

/-! The layouts of the two frames (R41, R42, R45, R108). -/

/-- The index of the luma byte of row `j`, column `i`, and the pixel's destination slot (R41, R45). -/
def lumaIndex (w j i : Nat) : Nat := j * w + i

/-- The index of the V byte of the pixel at row `j`, column `i` (R42, R108). -/
def vIndex (w h j i : Nat) : Nat := w * h + j / 2 * w + 2 * (i / 2)

/-- The index of the U byte of the pixel at row `j`, column `i` (R42, R108). -/
def uIndex (w h j i : Nat) : Nat := vIndex w h j i + 1

/-- `F-FRAME`: the length of a source frame in bytes (R43, R65). -/
def frameLength (w h : Nat) : Nat := w * h + w * h / 2

/-! The pixel function (R120, R130) and the shift form of the packer (R127). -/

/-- `matrix_clamp` (R120). -/
def matrixClamp (yb ub vb : Int) : Int × Int × Int :=
  (clampChannel (matrixR yb vb), clampChannel (matrixG yb ub vb), clampChannel (matrixB yb ub))

/-- `pixel(Y, U, V)` of R130, over mathematical integers. -/
def pixel (y u v : Byte) : Pixel :=
  let yb : Int := max ((y.toNat : Int) - 16) 0
  let ub : Int := (u.toNat : Int) - 128
  let vb : Int := (v.toNat : Int) - 128
  let k := matrixClamp yb ub vb
  BitVec.ofNat 32
    (0xFF000000 ||| ((k.2.2.toNat >>> 10) <<< 16) ||| ((k.2.1.toNat >>> 10) <<< 8) ||| (k.1.toNat >>> 10))

/-- The shift-and-mask form of the packer (R127). -/
def packShift (rk gk bk : Channel) : Pixel :=
  0xFF000000 ||| ((bk.setWidth 32 <<< 6) &&& 0x00FF0000) ||| ((gk.setWidth 32 >>> 2) &&& 0x0000FF00) |||
    ((rk.setWidth 32 >>> 10) &&& 0x000000FF)

/-- The word the pixel at row `j`, column `i` of the frame in `SRC` becomes (R92, R108). -/
def State.pixelAt (s : State) (j i : Nat) : Pixel :=
  pixel (s.src.read (lumaIndex s.width j i)) (s.src.read (uIndex s.width s.height j i))
    (s.src.read (vIndex s.width s.height j i))

/-! A call as a whole. -/

/-- `RESULT` of a call begun in this state, by the priority of R138 (R92). -/
def State.callResult (s : State) : BitVec 4 :=
  if s.infoOk = false then 1
  else if s.dstFormat ≠ 1 then 2
  else if s.width % 2 = 1 ∨ s.height % 2 = 1 then 5
  else if s.lockOk = false then 3
  else if s.srcOk = false then 4
  else if s.dstLen ≠ s.width * s.height ∨ s.srcLen < s.width * s.height * 3 / 2 then 6
  else 0

/-- The micro-operations of a call from `QINFO` to `RET` (R163). -/
def State.callSteps (s : State) : Nat :=
  match s.callResult.toNat with
  | 1 => 2
  | 2 => 3
  | 5 => 4
  | 3 => 5
  | 4 => 7
  | 6 => 9
  | _ =>
    if s.width = 0 ∨ s.height = 0 then 10
    else 10 + s.height + 6 * s.width * s.height + s.width * s.height / 2

/-- The source indices read for one pixel: on an even column V then U, then Y (R100, R108). -/
def State.pixelReads (s : State) (j i : Nat) : List Nat :=
  (if i % 2 = 0 then [vIndex s.width s.height j i, uIndex s.width s.height j i] else []) ++ [lumaIndex s.width j i]

/-- The events of one pixel: its reads, then its one store (R100, R108). -/
def State.pixelEvents (s : State) (j i : Nat) : List Event :=
  (s.pixelReads j i).map .rd ++ [.wr (lumaIndex s.width j i) (s.pixelAt j i)]

/-- The events of a whole frame, in raster order (R52, R100, R108). -/
def State.frameEvents (s : State) : List Event :=
  (List.range s.height).flatMap fun j => (List.range s.width).flatMap fun i => s.pixelEvents j i

/-- The events of a call begun in this state (R141, R108; 95_test_vectors V1 to V21). -/
def State.callEvents (s : State) : List Event :=
  match s.callResult.toNat with
  | 0 => [.acqDst, .acqSrc] ++ s.frameEvents ++ [.relSrc, .relDst]
  | 4 => [.acqDst, .relDst]
  | 6 => [.acqDst, .acqSrc, .relSrc, .relDst]
  | _ => []

end Sys2Proof.Machine
end

