-- ==== Sys2Proof/WellFormed.lean ====
section
/-! DEFINITION. Which codes name an operation, and which host writes fit their registers. -/

namespace Sys2Proof

/-- An operation has no operand field (R70, R74), so no `Instr` is ill-formed; the checks below are on codes and on the
host's writes. -/
def Instr.wellFormed : Instr → Bool
  | .idle | .qinfo | .chkfmt | .chkdim | .lockdst | .pinsrc | .chklen | .framestart | .rowstart | .ldvu | .ldy
  | .matrix | .clamp | .pack | .stpix | .next | .unpin | .unlock | .ret | .convert => true

/-- A phase code names an operation: 0 to 18 (R70, R72). -/
def wellFormedPhase (p : PhaseCode) : Bool := decide (p.toNat ≤ 18)

/-- A command byte names an operation: 0x01 alone (R67, R72). -/
def wellFormedCommand (b : BitVec 8) : Bool := decide (b = 1)

/-- A code names an operation. -/
def Code.wellFormed : Code → Bool
  | .phase p => wellFormedPhase p
  | .cmd b => wellFormedCommand b

namespace Machine

/-- The value of a host write fits its register: `DIM_BITS` for the dimensions, `IDX_BITS` for the lengths (R5, R66);
the other registers' widths are in the write's own type. -/
def CRWrite.Fits : CRWrite → Prop
  | .width v | .height v => v < 2 ^ Config.dimBits
  | .srcLen v | .dstLen v => v < 2 ^ Config.idxBits
  | .dstFormat _ | .hostRsp _ | .cmd _ | .status _ => True

/-- A host move the hardware can carry: a write whose value fits, or any other move. -/
def HostMove.Fits : HostMove → Prop
  | .write w => w.Fits
  | .read _ | .attachSrc _ | .attachDst _ | .reset => True

end Machine

end Sys2Proof
end

