-- ==== Sys2Proof/Safety.lean ====
section
/-! DEFINITION. What a good state is: the invariants of the sequencer, of the widths and of the frame being written. -/

namespace Sys2Proof.Machine

/-! Parts of a state the invariants speak of. -/

/-- Neither buffer is held (R30). -/
def State.HoldsNothing (s : State) : Prop := s.dstHeld = false ∧ s.srcHeld = false

/-- The destination alone is held (R139). -/
def State.HoldsDst (s : State) : Prop := s.dstHeld = true ∧ s.srcHeld = false

/-- Both buffers are held (R139). -/
def State.HoldsBoth (s : State) : Prop := s.dstHeld = true ∧ s.srcHeld = true

/-- A call runs and has not failed: `RESULT = 0`, `DONE = 0` (R18, R81). -/
def State.Unfailed (s : State) : Prop := s.result = 0 ∧ s.done = false

/-- Both dimensions are even: what `CHKDIM` establishes (R85). -/
def State.EvenDims (s : State) : Prop := s.width % 2 = 0 ∧ s.height % 2 = 0

/-- The lengths fit the dimensions: what `CHKLEN` establishes (R88). -/
def State.LengthsFit (s : State) : Prop :=
  s.dstLen = s.width * s.height ∧ s.width * s.height + s.width * s.height / 2 ≤ s.srcLen

/-- The pixel loop runs on a valid, non-empty frame (R100, R101). -/
def State.InFrame (s : State) : Prop :=
  s.HoldsBoth ∧ s.Unfailed ∧ s.EvenDims ∧ s.LengthsFit ∧ 0 < s.width ∧ 0 < s.height

/-- The loop is at the pixel of row `j`, column `i`, and `yIndex = row*WIDTH + col` (R22). -/
def State.AtPixel (s : State) (j i : Nat) : Prop :=
  s.InFrame ∧ s.row = some j ∧ s.col = some i ∧ j < s.height ∧ i < s.width ∧
    s.yIndex = some (lumaIndex s.width j i)

/-- The chroma pair of the pixel's block is loaded, biases removed, and the cursor is past it (R103, R106). -/
def State.PairLoaded (s : State) (j i : Nat) : Prop :=
  s.uvValid = some true ∧
    s.vb = some (chromaOperand (s.src.read (vIndex s.width s.height j i))) ∧
    s.ub = some (chromaOperand (s.src.read (uIndex s.width s.height j i))) ∧
    s.uvCursor = some (vIndex s.width s.height j i + 2)

/-- The luma operand of the pixel is loaded (R104). -/
def State.LumaLoaded (s : State) (j i : Nat) : Prop :=
  s.yb = some (lumaOperand (s.src.read (lumaIndex s.width j i)))

/-- The operands of the pixel at row `j`, column `i` as integers (R64): luma, U, V. -/
def State.operandsAt (s : State) (j i : Nat) : Int × Int × Int :=
  (max (((s.src.read (lumaIndex s.width j i)).toNat : Int) - 16) 0,
    ((s.src.read (uIndex s.width s.height j i)).toNat : Int) - 128,
    ((s.src.read (vIndex s.width s.height j i)).toNat : Int) - 128)

/-- The three sums of the pixel are in the matrix outputs (R116). -/
def State.SumsLoaded (s : State) (j i : Nat) : Prop :=
  let o := s.operandsAt j i
  s.rm.map BitVec.toInt = some (matrixR o.1 o.2.2) ∧ s.gm.map BitVec.toInt = some (matrixG o.1 o.2.1 o.2.2) ∧
    s.bm.map BitVec.toInt = some (matrixB o.1 o.2.1)

/-- The three clamped channels of the pixel are in the clamp's outputs (R117, R120). -/
def State.ChannelsLoaded (s : State) (j i : Nat) : Prop :=
  let o := s.operandsAt j i
  let k := matrixClamp o.1 o.2.1 o.2.2
  s.rk.map (fun b => (b.toNat : Int)) = some k.1 ∧ s.gk.map (fun b => (b.toNat : Int)) = some k.2.1 ∧
    s.bk.map (fun b => (b.toNat : Int)) = some k.2.2

/-- The slots below `n` hold the words of their pixels (R92). -/
def State.Written (s : State) (n : Nat) : Prop :=
  ∀ j i, j < s.height → i < s.width → lumaIndex s.width j i < n →
    s.dst.slot (lumaIndex s.width j i) = s.pixelAt j i

/-- The whole frame is written, unless the call has failed (R92). -/
def State.FrameDone (s : State) : Prop := s.result = 0 → s.Written (s.width * s.height)

/-- What holds whenever the sequencer stands at each phase: which buffers are held, where the counters are, which
registers hold what, how much of the frame is written. It is `False` at a reserved phase. -/
def State.PhaseInv (s : State) : Prop :=
  match s.phase.toNat with
  | 0 => s.HoldsNothing
  | 1 => s.HoldsNothing ∧ s.Unfailed
  | 2 => s.HoldsNothing ∧ s.Unfailed
  | 3 => s.HoldsNothing ∧ s.Unfailed
  | 4 => s.HoldsNothing ∧ s.Unfailed ∧ s.EvenDims
  | 5 => s.HoldsDst ∧ s.Unfailed ∧ s.EvenDims
  | 6 => s.HoldsBoth ∧ s.Unfailed ∧ s.EvenDims
  | 7 => s.HoldsBoth ∧ s.Unfailed ∧ s.EvenDims ∧ s.LengthsFit
  | 8 => s.InFrame ∧ ∃ j, s.row = some j ∧ j < s.height ∧ s.yIndex = some (lumaIndex s.width j 0) ∧
      s.Written (lumaIndex s.width j 0)
  | 9 => ∃ j i, s.AtPixel j i ∧ i % 2 = 0 ∧ s.uvCursor = some (vIndex s.width s.height j i) ∧
      s.Written (lumaIndex s.width j i)
  | 10 => ∃ j i, s.AtPixel j i ∧ s.PairLoaded j i ∧ s.Written (lumaIndex s.width j i)
  | 11 => ∃ j i, s.AtPixel j i ∧ s.PairLoaded j i ∧ s.LumaLoaded j i ∧ s.Written (lumaIndex s.width j i)
  | 12 => ∃ j i, s.AtPixel j i ∧ s.PairLoaded j i ∧ s.SumsLoaded j i ∧ s.Written (lumaIndex s.width j i)
  | 13 => ∃ j i, s.AtPixel j i ∧ s.PairLoaded j i ∧ s.ChannelsLoaded j i ∧ s.Written (lumaIndex s.width j i)
  | 14 => ∃ j i, s.AtPixel j i ∧ s.PairLoaded j i ∧ s.pix = some (s.pixelAt j i) ∧
      s.Written (lumaIndex s.width j i)
  | 15 => ∃ j i, s.AtPixel j i ∧ s.PairLoaded j i ∧ s.Written (lumaIndex s.width j i + 1)
  | 16 => s.HoldsBoth ∧ s.done = false ∧ s.FrameDone
  | 17 => s.HoldsDst ∧ s.done = false ∧ s.FrameDone
  | 18 => s.HoldsNothing ∧ s.done = false ∧ s.FrameDone
  | _ => False

/-- The invariant of the machine: both spaces in canonical form, the reserved bits of `STATUS` 0 and `RESULT` a code
the spec assigns (R18, R72), the declared lengths inside the attached buffers while a call runs (R161), and what the
phase demands. -/
def State.Inv (s : State) : Prop :=
  Memory.wf s.src ∧ Memory.wf s.dst ∧ s.status &&& 0xE0 = 0 ∧ s.result.toNat ≤ 6 ∧
    (s.phase ≠ Phase.idle → s.Truthful) ∧ s.PhaseInv

/-- Every register of an open width fits it (R5, R21 to R23, R66), and so do the values of the pending host writes. -/
def State.Fits (s : State) : Prop :=
  s.width < 2 ^ Config.dimBits ∧ s.height < 2 ^ Config.dimBits ∧
    s.srcLen < 2 ^ Config.idxBits ∧ s.dstLen < 2 ^ Config.idxBits ∧
    (∀ n ∈ s.row, n < 2 ^ Config.dimBits) ∧ (∀ n ∈ s.col, n < 2 ^ Config.dimBits) ∧
    (∀ n ∈ s.yIndex, n < 2 ^ Config.idxBits) ∧ (∀ n ∈ s.uvCursor, n < 2 ^ Config.idxBits) ∧
    ∀ m ∈ s.host, m.Fits

/-- The host is about to write `START` over buffers shorter than it declares: the configuration U6 refuses (R161). -/
def State.StartsUntruthfully (s : State) : Prop :=
  s.phase = Phase.idle ∧ s.pendingCommand = some Config.cmdStart ∧ ¬ s.Truthful

/-- The next host move of a state in `IDLE` is `START`: the host begins a call, with neither buffer held (R30, R81), over
buffers no shorter than it declares (R161). -/
def State.CallBegins (s : State) : Prop :=
  s.phase = Phase.idle ∧ s.pendingCommand = some Config.cmdStart ∧ s.HoldsNothing ∧ s.Truthful

/-- What a call owes the host at its end (R92, R93, R141): back in `IDLE`, `DONE`, nothing held, the source, the attached
buffers' sizes, the descriptor and the host's later moves as they were. -/
def State.CallEnds (s t : State) : Prop :=
  t.phase = Phase.idle ∧ t.done = true ∧ t.HoldsNothing ∧ t.src = s.src ∧ t.srcSize = s.srcSize ∧
    t.dstSize = s.dstSize ∧
    t.width = s.width ∧ t.height = s.height ∧ t.dstFormat = s.dstFormat ∧ t.srcLen = s.srcLen ∧
    t.dstLen = s.dstLen ∧ t.hostRsp = s.hostRsp ∧ t.host = s.host.tail

end Sys2Proof.Machine
end

