-- ==== Sys2Proof/Certificates/Slice0/Obligations.lean ====
section
/-! DEFINITION. The statements for the provers: each says in its docstring which rule of spec/ it formalises. -/

namespace Sys2Proof.Machine

/-- The word `new` is `old` with `RESULT = r` and `DONE = d`, its reserved bits as they were (R18). -/
def StatusIs (old new : BitVec 8) (r : BitVec 4) (d : Bool) : Prop :=
  statusResult new = r ∧ statusDone new = d ∧ new &&& 0xE0 = old &&& 0xE0

/-- The answer is `s` with a failure taken: `RESULT = r`, `PHASE = head`, no other register altered (R139). -/
def FailsTo (o : Host.Outcome State Fault Refusal) (s : State) (r : BitVec 4) (head : PhaseCode) : Prop :=
  ∃ w, StatusIs s.status w r s.done ∧ o = .next { s with status := w, phase := head }

/-- Two states that begin the same call: the same descriptor and replies, and sources that agree on the frame. Whatever
else they hold (leftovers of earlier calls, the destination, the source beyond the frame) may differ. -/
def SameCall (s s' : State) : Prop :=
  s'.width = s.width ∧ s'.height = s.height ∧ s'.dstFormat = s.dstFormat ∧ s'.srcLen = s.srcLen ∧
    s'.dstLen = s.dstLen ∧ s'.hostRsp = s.hostRsp ∧
    ∀ i, i < frameLength s.width s.height → s'.src.read i = s.src.read i

end Sys2Proof.Machine

open Sys2Proof Sys2Proof.Machine

/-! Reset, codes, and the step. -/

/-- R32, R155: what reset leaves, of the values the spec gives. -/
def Obligations.ResetLeavesTheSpecsValues : Prop :=
  State.reset.phase = Phase.idle ∧ State.reset.status = 0x00 ∧ State.reset.dstHeld = false ∧
    State.reset.srcHeld = false ∧ State.reset.row = none ∧ State.reset.col = none ∧ State.reset.yIndex = none ∧
    State.reset.uvCursor = none ∧ State.reset.yb = none ∧ State.reset.ub = none ∧ State.reset.vb = none ∧
    State.reset.rm = none ∧ State.reset.gm = none ∧ State.reset.bm = none ∧ State.reset.rk = none ∧
    State.reset.gk = none ∧ State.reset.bk = none ∧ State.reset.pix = none ∧ State.reset.uvValid = none

/-- The reset state meets the machine's invariant and the width invariant. -/
def Obligations.ResetMeetsTheInvariants : Prop := State.reset.Inv ∧ State.reset.Fits

/-- R70, R72, R76: every operation's code decodes to it, a code that decodes is its operation's, and the phases that do
not decode are 19 to 31. -/
def Obligations.DecodeAndEncodeAgree : Prop :=
  (∀ i : Instr, decode (encode i) = .ok i) ∧
    (∀ (c : Code) (i : Instr), decode c = .ok i → encode i = c) ∧
    ∀ p : PhaseCode, (∃ i, decode (.phase p) = .ok i) ↔ p.toNat ≤ 18

/-- R67, R70: some codes of the tables, written out bit by bit, decode to the operations they stand for. -/
def Obligations.TableWordsDecode : Prop :=
  decode (.phase 0b00000#5) = .ok .idle ∧ decode (.phase 0b00110#5) = .ok .chklen ∧
    decode (.phase 0b01001#5) = .ok .ldvu ∧ decode (.phase 0b01011#5) = .ok .matrix ∧
    decode (.phase 0b01110#5) = .ok .stpix ∧ decode (.phase 0b10010#5) = .ok .ret ∧
    decode (.cmd 0b00000001#8) = .ok .convert

/-- R20, R71, R81: what a step fetches, and that a step runs the operation fetched, also where the host has placed a
table word. -/
def Obligations.StepRunsTheDecodedOperation : Prop :=
  (∀ s : State, s.phase ≠ Phase.idle → s.fetch = .phase s.phase) ∧
    (∀ (s : State) (b : BitVec 8) (ms : List HostMove),
      s.phase = Phase.idle → s.host = .write (.cmd b) :: ms → s.fetch = .cmd b) ∧
    (∀ s : State, s.phase = Phase.idle → (∀ b ms, s.host ≠ .write (.cmd b) :: ms) → s.fetch = .phase Phase.idle) ∧
    (∀ (s : State) (i : Instr), decode s.fetch = .ok i → step s = exec i s) ∧
    ∀ (s : State) (nbits w : Nat) (i : Instr), decodeTableWord nbits w = some i →
      step (s.withFetchWord nbits w) = exec i (s.withFetchWord nbits w)

/-- R72, R150 row 4: a reserved phase is a fault of the model. -/
def Obligations.ReservedPhaseFaults : Prop :=
  ∀ s : State, 18 < s.phase.toNat → step s = .fault (.reservedPhase s.phase)

/-! Family 40: the command, the checks, the acquisitions, the releases, the return. -/

/-- R67, R81: a step in `IDLE` with a write of `CMD` pending takes the write; 0x01 clears `RESULT` and `DONE` and enters
`QINFO`, any other value changes nothing else. A 0x01 over buffers shorter than declared is refused (R161, U6; log 23). -/
def Obligations.CommandPortTakesStartAlone : Prop :=
  ∀ (s : State) (b : BitVec 8) (ms : List HostMove), s.phase = Phase.idle → s.host = .write (.cmd b) :: ms →
    (b = 0x01 → s.srcLen ≤ s.srcSize ∧ s.dstLen ≤ s.dstSize → ∃ w, StatusIs s.status w 0 false ∧
      step s = .next { s with host := ms, status := w, phase := Phase.qinfo }) ∧
    (b = 0x01 → s.srcSize < s.srcLen ∨ s.dstSize < s.dstLen → step s = .refused .untruthfulDescriptor) ∧
    (b ≠ 0x01 → step s = .next { s with host := ms })

/-- R81: `IDLE` changes nothing and waits while the host has no move. -/
def Obligations.IdleWaits : Prop :=
  ∀ s : State, (s.host = [] ∨ s.phase ≠ Phase.idle) → exec .idle s = .next s

/-- R80, R81: `CONVERT` in `IDLE` clears `RESULT` and `DONE`, enters `QINFO` and takes the pending command, nothing
else; it is refused over buffers shorter than declared (R161, U6; log 23) and outside `IDLE` (R72; the model's refusal,
log 11). -/
def Obligations.ConvertBeginsTheCall : Prop :=
  ∀ s : State,
    (s.phase = Phase.idle → s.srcLen ≤ s.srcSize ∧ s.dstLen ≤ s.dstSize → ∃ w, StatusIs s.status w 0 false ∧
      exec .convert s = .next { s with
        host := if s.pendingCommand.isSome then s.host.tail else s.host, status := w, phase := Phase.qinfo }) ∧
    (s.phase = Phase.idle → s.srcSize < s.srcLen ∨ s.dstSize < s.dstLen →
      exec .convert s = .refused .untruthfulDescriptor) ∧
    (s.phase ≠ Phase.idle → exec .convert s = .refused .startWhileBusy)

/-- R83: `QINFO`. -/
def Obligations.QinfoAsksForTheSurface : Prop :=
  ∀ s : State,
    (s.hostRsp.getLsbD 0 = true → exec .qinfo s = .next { s with phase := Phase.chkfmt }) ∧
    (s.hostRsp.getLsbD 0 = false → FailsTo (exec .qinfo s) s 1 Phase.ret)

/-- R84: `CHKFMT`. -/
def Obligations.ChkfmtAcceptsFormatOneAlone : Prop :=
  ∀ s : State,
    (s.dstFormat = 1 → exec .chkfmt s = .next { s with phase := Phase.chkdim }) ∧
    (s.dstFormat ≠ 1 → FailsTo (exec .chkfmt s) s 2 Phase.ret)

/-- R85: `CHKDIM`. -/
def Obligations.ChkdimRejectsOddDimensions : Prop :=
  ∀ s : State,
    (Even s.width ∧ Even s.height → exec .chkdim s = .next { s with phase := Phase.lockdst }) ∧
    (Odd s.width ∨ Odd s.height → FailsTo (exec .chkdim s) s 5 Phase.ret)

/-- R86: `LOCKDST`. -/
def Obligations.LockdstAcquiresTheDestination : Prop :=
  ∀ s : State,
    (s.hostRsp.getLsbD 1 = true →
      exec .lockdst s = .next { s with
        dstHeld := true, events := s.events ++ [.acqDst], phase := Phase.pinsrc }) ∧
    (s.hostRsp.getLsbD 1 = false → FailsTo (exec .lockdst s) s 3 Phase.ret)

/-- R87: `PINSRC`. -/
def Obligations.PinsrcAcquiresTheSource : Prop :=
  ∀ s : State,
    (s.hostRsp.getLsbD 2 = true →
      exec .pinsrc s = .next { s with
        srcHeld := true, events := s.events ++ [.acqSrc], phase := Phase.chklen }) ∧
    (s.hostRsp.getLsbD 2 = false → FailsTo (exec .pinsrc s) s 4 Phase.unlock)

/-- R88: `CHKLEN`. -/
def Obligations.ChklenChecksBothLengths : Prop :=
  ∀ s : State,
    (s.dstLen = s.width * s.height ∧ s.srcLen ≥ s.width * s.height + s.width * s.height / 2 →
      exec .chklen s = .next { s with phase := Phase.framestart }) ∧
    (s.dstLen ≠ s.width * s.height ∨ s.srcLen < s.width * s.height + s.width * s.height / 2 →
      FailsTo (exec .chklen s) s 6 Phase.unpin)

/-- R89, R90, R91, R143: the releases and the return, which cannot fail; `RET` returns any of the outcomes 0 to 6 that
R68 assigns (the reserved ones: `ReservedResultFaults`). -/
def Obligations.ReleasesAndReturnComplete : Prop :=
  ∀ s : State,
    exec .unpin s = .next { s with srcHeld := false, events := s.events ++ [.relSrc], phase := Phase.unlock } ∧
    exec .unlock s = .next { s with dstHeld := false, events := s.events ++ [.relDst], phase := Phase.ret } ∧
    (s.result.toNat ≤ 6 →
      ∃ w, StatusIs s.status w s.result true ∧ exec .ret s = .next { s with status := w, phase := Phase.idle })

/-! Family 41: the sampler and the sequencer. -/

/-- R101: `FRAMESTART`. -/
def Obligations.FramestartClearsTheCounters : Prop :=
  ∀ s : State,
    (s.width = 0 ∨ s.height = 0 →
      exec .framestart s = .next { s with yIndex := some 0, row := some 0, phase := Phase.unpin }) ∧
    (s.width ≠ 0 ∧ s.height ≠ 0 →
      exec .framestart s = .next { s with yIndex := some 0, row := some 0, phase := Phase.rowstart })

/-- R102, with R24 and R26 on what it invalidates: `ROWSTART`. -/
def Obligations.RowstartSetsTheChromaCursor : Prop :=
  ∀ (s : State) (row : Nat), s.row = some row →
    exec .rowstart s = .next { s with
      uvCursor := some (s.width * s.height + row / 2 * s.width), col := some 0, uvValid := some false,
      ub := none, vb := none, phase := Phase.ldvu }

/-- R107: rows 2k and 2k+1 start their chroma cursor at the same base, `planeSize + k*width`. -/
def Obligations.RowPairsShareTheChromaBase : Prop :=
  ∀ (s : State) (k row : Nat), s.row = some row → (row = 2 * k ∨ row = 2 * k + 1) →
    ∃ t, exec .rowstart s = .next t ∧ t.uvCursor = some (s.width * s.height + k * s.width)

/-- R103, R64, R49: `LDVU` reads V at the cursor and U at the next index, each as an unsigned byte less 128. That the
event of V comes before that of U is the MODEL'S order (DESIGN CHOICE, log 14; the spec's decision D13): R100 and U3 say
that no claim may depend on it. `SuccessfulCallEventsAreTheRaster` leaves it free. The hypothesis on `srcSize` is the model's (DEDUCED, log 23). -/
def Obligations.LdvuLoadsTheChromaPair : Prop :=
  ∀ (s : State) (c : Nat), s.uvCursor = some c → s.srcHeld = true → c + 1 < s.srcLen → c + 1 < s.srcSize →
    ∃ v u : Chroma, v.toInt = ((s.src.read c).toNat : Int) - 128 ∧
      u.toInt = ((s.src.read (c + 1)).toNat : Int) - 128 ∧
      exec .ldvu s = .next { s with
        vb := some v, ub := some u, uvCursor := some (c + 2), uvValid := some true,
        events := s.events ++ [.rd c, .rd (c + 1)], phase := Phase.ldy }

/-- R104, R64: `LDY` reads the luma byte at `yIndex`, less 16, floored at 0 and not wrapped. The hypothesis on `srcSize` is
the model's (DEDUCED, log 23). -/
def Obligations.LdyLoadsTheLuma : Prop :=
  ∀ (s : State) (n : Nat), s.yIndex = some n → s.srcHeld = true → n < s.srcLen → n < s.srcSize →
    ∃ y : Luma, (y.toNat : Int) = max (((s.src.read n).toNat : Int) - 16) 0 ∧ y.toNat ≤ 239 ∧
      exec .ldy s = .next { s with yb := some y, events := s.events ++ [.rd n], phase := Phase.matrix }

/-- R105: `NEXT` in the four cases of the loop. -/
def Obligations.NextAdvancesTheRaster : Prop :=
  ∀ (s : State) (n c : Nat), s.yIndex = some n → s.col = some c →
    (c + 1 ≠ s.width → Even (c + 1) →
      exec .next s = .next { s with yIndex := some (n + 1), col := some (c + 1), phase := Phase.ldvu }) ∧
    (c + 1 ≠ s.width → Odd (c + 1) →
      exec .next s = .next { s with yIndex := some (n + 1), col := some (c + 1), phase := Phase.ldy }) ∧
    (∀ r, s.row = some r → c + 1 = s.width → r + 1 ≠ s.height →
      exec .next s = .next { s with
        yIndex := some (n + 1), col := some (c + 1), row := some (r + 1), phase := Phase.rowstart }) ∧
    (∀ r, s.row = some r → c + 1 = s.width → r + 1 = s.height →
      exec .next s = .next { s with
        yIndex := some (n + 1), col := some (c + 1), row := some (r + 1), phase := Phase.unpin })

/-! Families 42 and 43: the matrix, the clamp, the packer, the store. -/

/-- R116, R118: `MATRIX` computes the three sums exactly, whatever its operand registers hold. -/
def Obligations.MatrixIsExact : Prop :=
  ∀ (s : State) (y : Luma) (u v : Chroma),
    s.uvValid = some true → s.yb = some y → s.ub = some u → s.vb = some v →
    ∃ r g b : Sum, r.toInt = 1192 * (y.toNat : Int) + 1634 * v.toInt ∧
      g.toInt = 1192 * (y.toNat : Int) - 833 * v.toInt - 400 * u.toInt ∧
      b.toInt = 1192 * (y.toNat : Int) + 2066 * u.toInt ∧
      exec .matrix s = .next { s with rm := some r, gm := some g, bm := some b, phase := Phase.clamp }

/-- R27, R116: the ranges of the three sums over all bytes, each bound attained. -/
def Obligations.MatrixRangesAreTight : Prop :=
  (∀ y u v : Byte,
    let yb : Int := (lumaOperand y).toNat
    let ub := (chromaOperand u).toInt
    let vb := (chromaOperand v).toInt
    (-209152 ≤ matrixR yb vb ∧ matrixR yb vb ≤ 492406) ∧
      (-156591 ≤ matrixG yb ub vb ∧ matrixG yb ub vb ≤ 442712) ∧
      (-264448 ≤ matrixB yb ub ∧ matrixB yb ub ≤ 547270)) ∧
    matrixR 0 (-128) = -209152 ∧ matrixR 239 127 = 492406 ∧ matrixG 0 127 127 = -156591 ∧
    matrixG 239 (-128) (-128) = 442712 ∧ matrixB 0 (-128) = -264448 ∧ matrixB 239 127 = 547270

/-- R117: `CLAMP` bounds each channel on its own to 0..262143. -/
def Obligations.ClampBoundsEachChannel : Prop :=
  ∀ (s : State) (r g b : Sum), s.rm = some r → s.gm = some g → s.bm = some b →
    ∃ r' g' b' : Channel,
      ((r'.toNat : Int) = if r.toInt < 0 then 0 else if 262143 < r.toInt then 262143 else r.toInt) ∧
      ((g'.toNat : Int) = if g.toInt < 0 then 0 else if 262143 < g.toInt then 262143 else g.toInt) ∧
      ((b'.toNat : Int) = if b.toInt < 0 then 0 else if 262143 < b.toInt then 262143 else b.toInt) ∧
      exec .clamp s = .next { s with rk := some r', gk := some g', bk := some b', phase := Phase.pack }

/-- R120: `matrix_clamp` is monotone in `Yb` in each component, and takes the four values the rule gives. -/
def Obligations.MatrixClampIsMonotone : Prop :=
  (∀ y y' u v : Int, y ≤ y' →
    (matrixClamp y u v).1 ≤ (matrixClamp y' u v).1 ∧ (matrixClamp y u v).2.1 ≤ (matrixClamp y' u v).2.1 ∧
      (matrixClamp y u v).2.2 ≤ (matrixClamp y' u v).2.2) ∧
    matrixClamp 0 0 0 = (0, 0, 0) ∧ matrixClamp 219 0 0 = (261048, 261048, 261048) ∧
    matrixClamp 239 127 127 = (262143, 128297, 262143) ∧ matrixClamp 0 (-128) (-128) = (0, 157824, 0)

/-- R126, R63, R129: `PACK` puts bits 17 to 10 of each channel in its lane, red lowest, alpha 0xFF. -/
def Obligations.PackKeepsTheTopEightBits : Prop :=
  ∀ (s : State) (r g b : Channel), s.rk = some r → s.gk = some g → s.bk = some b →
    ∃ w : Pixel, w.toNat = 255 * 2 ^ 24 + b.toNat / 2 ^ 10 * 2 ^ 16 + g.toNat / 2 ^ 10 * 2 ^ 8 + r.toNat / 2 ^ 10 ∧
      exec .pack s = .next { s with pix := some w, phase := Phase.stpix }

/-- R127: the shift-and-mask form of the packer is the lane form. -/
def Obligations.PackEqualsTheShiftForm : Prop :=
  ∀ rk gk bk : Channel, packShift rk gk bk = packWord rk gk bk

/-- R130: the datapath from the three bytes to the word is the pixel function. -/
def Obligations.DatapathComputesThePixelFunction : Prop :=
  ∀ (s : State) (y u v : Byte), s.uvValid = some true → s.yb = some (lumaOperand y) →
    s.ub = some (chromaOperand u) → s.vb = some (chromaOperand v) →
    ∃ s1 s2 s3, exec .matrix s = .next s1 ∧ exec .clamp s1 = .next s2 ∧ exec .pack s2 = .next s3 ∧
      s3.pix = some (pixel y u v) ∧ s3.phase = Phase.stpix

/-- R116, R126 on neutral chroma: a grey input gives a grey pixel, whatever the signs of the matrix. -/
def Obligations.NeutralChromaGivesGrey : Prop :=
  ∀ y : Byte, pixelByte (pixel y 128 128) 0 = pixelByte (pixel y 128 128) 1 ∧
    pixelByte (pixel y 128 128) 1 = pixelByte (pixel y 128 128) 2 ∧ pixelByte (pixel y 128 128) 3 = 0xFF ∧
    (pixelByte (pixel y 128 128) 0).toNat = min (1192 * (y.toNat - 16) / 1024) 255

/-- R128, R47, R48: `STPIX` stores the word in slot `yIndex`, red at the lowest of its four bytes; every other byte of
the destination reads as before, and nothing else changes. The hypothesis on `dstSize` is the model's (DEDUCED, log 23). -/
def Obligations.StpixStoresOneSlot : Prop :=
  ∀ (s : State) (w : Pixel) (n : Nat),
    s.pix = some w → s.yIndex = some n → s.dstHeld = true → n < s.dstLen → n < s.dstSize →
    ∃ d : Memory, exec .stpix s = .next { s with dst := d, events := s.events ++ [.wr n w], phase := Phase.next } ∧
      d.read (4 * n) = w.extractLsb' 0 8 ∧ d.read (4 * n + 1) = w.extractLsb' 8 8 ∧
      d.read (4 * n + 2) = w.extractLsb' 16 8 ∧ d.read (4 * n + 3) = w.extractLsb' 24 8 ∧
      d.slot n = w ∧
      (∀ a, ¬ (4 * n ≤ a ∧ a < 4 * n + 4) → d.read a = s.dst.read a) ∧ ∀ p, p ≠ n → d.slot p = s.dst.slot p

/-! The faults of R150, and that of a reserved `RESULT`. -/

/-- R8, R24, R150 row 1: a micro-operation that reads a register holding `none` faults, naming the register. -/
def Obligations.ReadingNoneFaults : Prop :=
  ∀ s : State,
    (s.row = none → exec .rowstart s = .fault (.noValue .row)) ∧
    (s.uvCursor = none → exec .ldvu s = .fault (.noValue .uvCursor)) ∧
    (s.yIndex = none → exec .ldy s = .fault (.noValue .yIndex) ∧ exec .next s = .fault (.noValue .yIndex)) ∧
    (s.uvValid ≠ some true → exec .matrix s = .fault (.noValue .uvValid)) ∧
    (s.uvValid = some true → s.yb = none ∨ s.vb = none ∨ s.ub = none → ∃ r, exec .matrix s = .fault (.noValue r)) ∧
    (s.rm = none ∨ s.gm = none ∨ s.bm = none → ∃ r, exec .clamp s = .fault (.noValue r)) ∧
    (s.rk = none ∨ s.gk = none ∨ s.bk = none → ∃ r, exec .pack s = .fault (.noValue r)) ∧
    (s.pix = none ∨ s.yIndex = none → ∃ r, exec .stpix s = .fault (.noValue r)) ∧
    (s.yIndex ≠ none → s.col = none → exec .next s = .fault (.noValue .col)) ∧
    ∀ n c, s.yIndex = some n → s.col = some c → c + 1 = s.width → s.row = none →
      exec .next s = .fault (.noValue .row)

/-- R46, R47, R150 rows 2 and 3: an access out of range of the declared length, or while the buffer is not held, faults.
The clauses on `srcSize` and `dstSize`, an index below the declared length but beyond the attached buffer, are the MODEL'S
choice (DEDUCED, log 23): those rules speak of `SRC_LEN` and `DST_LEN` alone, R161 says "undefined result" and U6 refuses. -/
def Obligations.AccessOutsideTheBufferFaults : Prop :=
  ∀ s : State,
    (∀ n, s.yIndex = some n → s.srcHeld = false ∨ s.srcLen ≤ n ∨ s.srcSize ≤ n →
      exec .ldy s = .fault (.badSrcRead n)) ∧
    (∀ c, s.uvCursor = some c → s.srcHeld = false ∨ s.srcLen ≤ c ∨ s.srcSize ≤ c →
      exec .ldvu s = .fault (.badSrcRead c)) ∧
    (∀ c, s.uvCursor = some c → s.srcHeld = true → c < s.srcLen → c < s.srcSize →
      s.srcLen = c + 1 ∨ s.srcSize = c + 1 → exec .ldvu s = .fault (.badSrcRead (c + 1))) ∧
    ∀ w n, s.pix = some w → s.yIndex = some n → s.dstHeld = false ∨ s.dstLen ≤ n ∨ s.dstSize ≤ n →
      exec .stpix s = .fault (.badDstWrite n)

/-- D31, U10 (with R72): a reserved `RESULT`, 7 to 15, is a fault of the model where it is met: by `RET`, which would
return it, and by a host read of `STATUS` (the two places are the model's reading, log 24). -/
def Obligations.ReservedResultFaults : Prop :=
  ∀ s : State, 6 < s.result.toNat →
    exec .ret s = .fault (.reservedResult s.result) ∧
    ∀ ms, s.phase = Phase.idle → s.host = .read .status :: ms → step s = .fault (.reservedResult s.result)

/-! The host's port. -/

/-- R11 to R16, R18: a host write of a descriptor register in `IDLE` replaces that register alone; a write of `STATUS`
has no effect. The pending-move list is the model's own (log 4). -/
def Obligations.HostWritesLandInTheirRegister : Prop :=
  ∀ (s : State) (ms : List HostMove) (m : CRWrite), s.phase = Phase.idle → s.host = .write m :: ms →
    (∀ v, m = .width v → step s = .next { s with host := ms, width := v }) ∧
    (∀ v, m = .height v → step s = .next { s with host := ms, height := v }) ∧
    (∀ v, m = .dstFormat v → step s = .next { s with host := ms, dstFormat := v }) ∧
    (∀ v, m = .srcLen v → step s = .next { s with host := ms, srcLen := v }) ∧
    (∀ v, m = .dstLen v → step s = .next { s with host := ms, dstLen := v }) ∧
    (∀ v, m = .hostRsp v → step s = .next { s with host := ms, hostRsp := v }) ∧
    ∀ v, m = .status v → step s = .next { s with host := ms }

/-- R17, R18, R68: what a host read in `IDLE` returns; `CMD` reads 0 and bits 7 to 5 of `STATUS` read 0. A read changes
nothing but the model's event history (log 5). A reserved `RESULT` is the case of `ReservedResultFaults`. -/
def Obligations.HostReadsReturnTheRegister : Prop :=
  ∀ (s : State) (ms : List HostMove) (r : CReg), s.phase = Phase.idle → s.host = .read r :: ms →
    (r = .status → s.result.toNat ≤ 6) →
    ∃ v : Nat, step s = .next { s with host := ms, events := s.events ++ [.crRead r v] } ∧
      (r = .width → v = s.width) ∧ (r = .height → v = s.height) ∧ (r = .dstFormat → v = s.dstFormat.toNat) ∧
      (r = .srcLen → v = s.srcLen) ∧ (r = .dstLen → v = s.dstLen) ∧ (r = .hostRsp → v = s.hostRsp.toNat) ∧
      (r = .cmd → v = 0) ∧ (r = .status → v = s.result.toNat + (if s.done then 16 else 0))

/-- R155: reset asserted in `IDLE` gives the values of R32 and touches neither space, nor which buffers are attached
(their sizes: log 23). -/
def Obligations.ResetBetweenCalls : Prop :=
  ∀ (s : State) (ms : List HostMove), s.phase = Phase.idle → s.host = .reset :: ms →
    ∃ t, step s = .next t ∧ t.phase = Phase.idle ∧ t.status = 0x00 ∧ t.dstHeld = false ∧ t.srcHeld = false ∧
      t.row = none ∧ t.col = none ∧ t.yIndex = none ∧ t.uvCursor = none ∧ t.yb = none ∧ t.ub = none ∧ t.vb = none ∧
      t.rm = none ∧ t.gm = none ∧ t.bm = none ∧ t.rk = none ∧ t.gk = none ∧ t.bk = none ∧ t.pix = none ∧
      t.uvValid = none ∧ t.src = s.src ∧ t.dst = s.dst ∧ t.srcSize = s.srcSize ∧ t.dstSize = s.dstSize ∧
      t.host = ms ∧ t.events = s.events

/-- R93, R157: a buffer the host attaches in `IDLE` is what the space then reads as, from index or slot 0 on, and its
length is the space's size (log 23). An index beyond it, which no operation reaches, has the blank byte (log 6). -/
def Obligations.AttachedBuffersReadBack : Prop :=
  ∀ (s : State) (ms : List HostMove), s.phase = Phase.idle →
    (∀ bs, s.host = .attachSrc bs :: ms →
      ∃ m : Memory, step s = .next { s with host := ms, src := m, srcSize := bs.length } ∧
        ∀ i, m.read i = bs.getD i Memory.blank) ∧
    ∀ ws, s.host = .attachDst ws :: ms →
      ∃ m : Memory, step s = .next { s with host := ms, dst := m, dstSize := ws.length } ∧
        ∀ p, m.slot p = ws.getD p 0

/-! Rules of the whole machine, over every step. -/

/-- R19, R81, R161: while a call runs the host has no move: no step outside `IDLE` changes `CR0` to `CR5`, the source,
which buffers are attached (their sizes: log 23), or the pending moves. -/
def Obligations.DescriptorIsConstantDuringACall : Prop :=
  ∀ s t : State, s.phase ≠ Phase.idle → step s = .next t →
    t.width = s.width ∧ t.height = s.height ∧ t.dstFormat = s.dstFormat ∧ t.srcLen = s.srcLen ∧
      t.dstLen = s.dstLen ∧ t.hostRsp = s.hostRsp ∧ t.src = s.src ∧ t.srcSize = s.srcSize ∧
      t.dstSize = s.dstSize ∧ t.host = s.host

/-- R17, R18, R139, R155: what writes `STATUS`. Outside `IDLE`: `RESULT` by the six checks alone, `DONE` by `RET` alone.
In `IDLE`: both by `START`, which clears them, and the whole register by reset. The reserved bits: by reset alone. -/
def Obligations.OnlyStartChecksReturnAndResetWriteStatus : Prop :=
  ∀ s t : State, step s = .next t →
    (s.phase ≠ Phase.idle →
      (6 < s.phase.toNat → t.result = s.result) ∧ (t.result = s.result ∨ (1 ≤ t.result.toNat ∧ t.result.toNat ≤ 6)) ∧
        (s.phase ≠ Phase.ret → t.done = s.done) ∧ (s.phase = Phase.ret → t.done = true) ∧
        t.status &&& 0xE0 = s.status &&& 0xE0) ∧
    (s.phase = Phase.idle → t.status = s.status ∨
      (s.pendingCommand = some 0x01 ∧ t.phase = Phase.qinfo ∧ StatusIs s.status t.status 0 false) ∨
      ((∃ ms, s.host = .reset :: ms) ∧ t.status = 0x00))

/-- R40: the destination is reached by `STPIX` alone and the source by `LDVU` and `LDY` alone. -/
def Obligations.SpacesAreReachedByTheirOperationsAlone : Prop :=
  ∀ s t : State, s.phase ≠ Phase.idle → step s = .next t →
    (s.phase ≠ Phase.stpix → t.dst = s.dst) ∧
      ∃ new, t.events = s.events ++ new ∧
        (∀ p w, Event.wr p w ∈ new → s.phase = Phase.stpix) ∧
        ∀ i, Event.rd i ∈ new → s.phase = Phase.ldvu ∨ s.phase = Phase.ldy

/-- R106: outside `IDLE`, `Ub` and `Vb` change in `LDVU` and `ROWSTART` alone; after an even column's pixel `NEXT` goes
to `LDY`, so the odd column's pixel uses the pair already loaded. -/
def Obligations.ChromaPairIsReusedOnOddColumns : Prop :=
  ∀ s t : State, s.phase ≠ Phase.idle → step s = .next t →
    (s.phase ≠ Phase.ldvu → s.phase ≠ Phase.rowstart → t.ub = s.ub ∧ t.vb = s.vb) ∧
      ∀ c, s.phase = Phase.next → s.col = some c → Even c → Even s.width → c < s.width → t.phase = Phase.ldy

/-- Every operation keeps both spaces in their canonical form. -/
def Obligations.StepKeepsTheSpacesCanonical : Prop :=
  ∀ s t : State, Memory.wf s.src → Memory.wf s.dst → step s = .next t → Memory.wf t.src ∧ Memory.wf t.dst

/-- R44, R47, R161: from a state that meets the invariant, every index a step reads is inside the frame, the declared
length and the attached buffer (its size: log 23), and so is every slot it writes. -/
def Obligations.AccessesStayInsideTheFrame : Prop :=
  ∀ s t : State, s.Inv → s.phase ≠ Phase.idle → step s = .next t →
    ∃ new, t.events = s.events ++ new ∧
      (∀ i, Event.rd i ∈ new → i < s.width * s.height * 3 / 2 ∧ i < s.srcLen ∧ i < s.srcSize) ∧
      ∀ p w, Event.wr p w ∈ new → p < s.width * s.height ∧ p < s.dstLen ∧ p < s.dstSize

/-- R22, R165: the variant. In the loop every `NEXT` adds 1 to `yIndex`, which stays at most `WIDTH*HEIGHT` and reaches
it exactly when `NEXT` goes to `UNPIN`; no other micro-operation of the loop changes it. -/
def Obligations.EveryNextCountsOnePixel : Prop :=
  ∀ s t : State, s.Inv → step s = .next t →
    (s.phase = Phase.next → ∃ n, s.yIndex = some n ∧ n < s.width * s.height ∧ t.yIndex = some (n + 1) ∧
      (t.phase = Phase.unpin ↔ n + 1 = s.width * s.height)) ∧
    (8 ≤ s.phase.toNat → s.phase ≠ Phase.next → t.yIndex = s.yIndex)

/-- R22, R23, R24, R30, R44, R47: the invariant of the machine, which says at every phase which buffers are held, where
the counters are, what the registers hold and how much of the frame is written, is kept by every step. -/
def Obligations.EveryStepKeepsTheInvariant : Prop := ∀ s t : State, s.Inv → step s = .next t → t.Inv

/-- R142, R150: from a state that meets the invariant a step goes on: none of the model's faults can happen, and the
only refusal is that of the host U6 excludes, at its `START` (log 23). -/
def Obligations.NoFaultFromTheInvariant : Prop :=
  ∀ s : State, s.Inv →
    (¬ s.StartsUntruthfully → ∃ t, step s = .next t) ∧
    (s.StartsUntruthfully → step s = .refused .untruthfulDescriptor)

/-- R5, R21 to R23: whatever `DIM_BITS` is, no counter outgrows its width and no index outgrows `2*DIM_BITS + 1` bits. -/
def Obligations.WidthsSufficeAtEveryStep : Prop := ∀ s t : State, s.Inv → s.Fits → step s = .next t → t.Fits

/-! A call as a whole. -/

/-- R92, R136, R138 to R141, R163: a call with a failing condition ends after the steps R163 counts, reports the kind of
highest priority, writes nothing, reads nothing, and releases what it acquired. The priority is the spec's own order of
the checks (R138, D28, U15; log 14). -/
def Obligations.FailingCallReportsAndWritesNothing : Prop :=
  ∀ s : State, s.CallBegins → s.callResult ≠ 0 →
    ∃ t, core.run (s.callSteps + 1) s = .next t ∧ s.CallEnds t ∧ t.result = s.callResult ∧ t.dst = s.dst ∧
      t.events = s.events ++ s.callEvents

/-- R92, R163, R165: a call with no failing condition ends after the steps R163 counts, with `RESULT = 0`, every slot of
the frame holding the word of its pixel, and every byte of the destination beyond the frame as it was. -/
def Obligations.SuccessfulCallConvertsTheFrame : Prop :=
  ∀ s : State, s.CallBegins → s.callResult = 0 →
    ∃ t, core.run (s.callSteps + 1) s = .next t ∧ s.CallEnds t ∧ t.result = 0 ∧
      (∀ j i, j < s.height → i < s.width → t.dst.slot (j * s.width + i) =
        pixel (s.src.read (j * s.width + i))
          (s.src.read (s.width * s.height + j / 2 * s.width + 2 * (i / 2) + 1))
          (s.src.read (s.width * s.height + j / 2 * s.width + 2 * (i / 2)))) ∧
      ∀ a, 4 * (s.width * s.height) ≤ a → t.dst.read a = s.dst.read a

/-- R52, R54, R100, R108, R141: the events of a successful call: the acquisitions, then for each pixel in raster order
the reads R108 gives it and its one store, then the releases in reverse order. The order of the reads WITHIN a pixel is
left free, as R100 and U3 ask (log 14); the order of the releases is the spec's own decision (D14). -/
def Obligations.SuccessfulCallEventsAreTheRaster : Prop :=
  ∀ s : State, s.CallBegins → s.callResult = 0 →
    ∃ (t : State) (reads : Nat → Nat → List Nat), core.run (s.callSteps + 1) s = .next t ∧
      (∀ j i, (reads j i).Perm (s.pixelReads j i)) ∧
      t.events = s.events ++ [.acqDst, .acqSrc] ++
        ((List.range s.height).flatMap fun j => (List.range s.width).flatMap fun i =>
          (reads j i).map Event.rd ++ [.wr (j * s.width + i) (s.pixelAt j i)]) ++ [.relSrc, .relDst]

/-- R31, R43: a call's outcome depends on the descriptor, the replies and the frame alone: what earlier calls or reset
left in the registers and the destination, and the source beyond the frame, cannot be seen. Both calls run
for the steps R163 counts, and have then ended. -/
def Obligations.CallOutcomeDependsOnTheFrameAlone : Prop :=
  ∀ s s' : State, s.CallBegins → s'.CallBegins → SameCall s s' →
    ∃ t t', core.run (s.callSteps + 1) s = .next t ∧ core.run (s.callSteps + 1) s' = .next t' ∧
      s.CallEnds t ∧ s'.CallEnds t' ∧ t'.result = t.result ∧
      (t.result = 0 → ∀ p, p < s.width * s.height → t'.dst.slot p = t.dst.slot p) ∧
      ∃ new, t.events = s.events ++ new ∧ t'.events = s'.events ++ new
end

