-- ==== Sys2Proof/Laws/Memory.lean ====
section
/-! SUPPORT. The laws of the two spaces: a read after a write, and that every operation keeps the canonical form. -/

namespace Sys2Proof.Machine

theorem Memory.read_erase (m : Memory) (a x : Nat) :
    (m.erase a).read x = if x = a then Memory.blank else m.read x := by
  induction m with
  | nil => simp [Memory.erase, Memory.read]
  | cons c rest ih =>
    obtain ⟨k, b⟩ := c
    rw [Memory.erase] at ih ⊢
    by_cases hk : k = a
    · subst hk
      by_cases hx : x = k
      · simp_all
      · rw [List.filter_cons_of_neg (by simp), ih]
        simp [hx, Memory.read, Ne.symm hx]
    · rw [List.filter_cons_of_pos (by simpa using hk)]
      by_cases hx : x = a
      · subst hx
        simp_all [Memory.read]
      · simp_all [Memory.read]

theorem Memory.read_insert (m : Memory) (a x : Nat) (b : Byte) (h : ∀ c ∈ m, c.1 ≠ a) :
    (m.insert a b).read x = if x = a then b else m.read x := by
  induction m with
  | nil => simp only [Memory.insert, Memory.read, eq_comm]
  | cons c rest ih =>
    obtain ⟨k, d⟩ := c
    have hk : k ≠ a := h (k, d) (by simp)
    have ih := ih fun c hc => h c (by simp [hc])
    unfold Memory.insert
    split
    · simp only [Memory.read, eq_comm]
    · by_cases hx : x = a
      · subst hx
        simp [Memory.read, hk, ih]
      · simp [Memory.read, ih, hx]

theorem Memory.fst_ne_of_mem_erase {m : Memory} {a : Nat} {c : Host.Cell} (h : c ∈ m.erase a) : c.1 ≠ a := by
  simpa using (List.mem_filter.1 h).2

/-- Reading any index after a write: the byte written there, and elsewhere what was there. -/
theorem Memory.read_write (m : Memory) (a x : Nat) (b : Byte) :
    (m.write a b).read x = if x = a then b else m.read x := by
  unfold Memory.write
  split
  next hb => subst hb; exact m.read_erase a x
  next =>
    rw [Memory.read_insert _ _ _ _ fun _ hc => Memory.fst_ne_of_mem_erase hc, Memory.read_erase]
    split <;> rfl

@[simp] theorem Memory.read_write_same (m : Memory) (a : Nat) (b : Byte) : (m.write a b).read a = b := by
  simp [Memory.read_write]

theorem Memory.read_write_other (m : Memory) {a x : Nat} (b : Byte) (h : x ≠ a) :
    (m.write a b).read x = m.read x := by
  simp [Memory.read_write, h]

theorem Memory.wf_nil : Memory.wf [] := by simp [Memory.wf]

theorem Memory.wf_erase {m : Memory} (a : Nat) (h : Memory.wf m) : Memory.wf (m.erase a) :=
  ⟨h.1.filter _, fun c hc => h.2 c (List.mem_filter.1 hc).1⟩

theorem Memory.mem_insert {m : Memory} {a : Nat} {b : Byte} {c : Host.Cell} (h : c ∈ m.insert a b) :
    c = (a, b) ∨ c ∈ m := by
  induction m with
  | nil => simpa [Memory.insert] using h
  | cons d rest ih =>
    unfold Memory.insert at h
    split at h
    · simpa using h
    · rcases List.mem_cons.1 h with rfl | h
      · simp
      · rcases ih h with h | h <;> simp [h]

theorem Memory.wf_insert {m : Memory} {a : Nat} {b : Byte} (hb : b ≠ Memory.blank) (hm : Memory.wf m)
    (ha : ∀ c ∈ m, c.1 ≠ a) : Memory.wf (m.insert a b) := by
  induction m with
  | nil => simpa [Memory.insert, Memory.wf] using hb
  | cons d rest ih =>
    obtain ⟨⟨hlt, hrest⟩, hne⟩ := And.imp_left List.pairwise_cons.1 hm
    have ih := ih ⟨hrest, fun c hc => hne c (by simp [hc])⟩ fun c hc => ha c (by simp [hc])
    have had := ha d (by simp)
    unfold Memory.insert
    split
    next hlt' =>
      refine ⟨List.pairwise_cons.2 ⟨?_, hm.1⟩, ?_⟩
      · intro c hc
        rcases List.mem_cons.1 hc with rfl | hc
        · exact hlt'
        · exact Nat.lt_trans hlt' (hlt c hc)
      · intro c hc
        rcases List.mem_cons.1 hc with rfl | hc
        · exact hb
        · exact hne c hc
    next hge =>
      refine ⟨List.pairwise_cons.2 ⟨?_, ih.1⟩, ?_⟩
      · intro c hc
        rcases Memory.mem_insert hc with rfl | hc
        · simp only at hge ⊢
          omega
        · exact hlt c hc
      · intro c hc
        rcases List.mem_cons.1 hc with rfl | hc
        · exact hne _ (by simp)
        · exact ih.2 c hc

/-- A write keeps the canonical form. -/
theorem Memory.wf_write {m : Memory} (a : Nat) (b : Byte) (h : Memory.wf m) : Memory.wf (m.write a b) := by
  unfold Memory.write
  split
  · exact Memory.wf_erase a h
  next hb => exact Memory.wf_insert hb (Memory.wf_erase a h) fun _ hc => Memory.fst_ne_of_mem_erase hc

theorem Memory.ofBytes_ge {bs : List Byte} {a : Nat} {c : Host.Cell} (h : c ∈ Memory.ofBytes a bs) : a ≤ c.1 := by
  induction bs generalizing a with
  | nil => simp [Memory.ofBytes] at h
  | cons b bs ih =>
    unfold Memory.ofBytes at h
    split at h
    · exact Nat.le_of_succ_le (ih h)
    · rcases List.mem_cons.1 h with rfl | h
      · simp
      · exact Nat.le_of_succ_le (ih h)

/-- A buffer the host attaches has the canonical form. -/
theorem Memory.wf_ofBytes (a : Nat) (bs : List Byte) : Memory.wf (Memory.ofBytes a bs) := by
  induction bs generalizing a with
  | nil => exact Memory.wf_nil
  | cons b bs ih =>
    unfold Memory.ofBytes
    split
    · exact ih (a + 1)
    next hb =>
      refine ⟨List.pairwise_cons.2 ⟨fun c hc => Memory.ofBytes_ge hc, (ih (a + 1)).1⟩, ?_⟩
      intro c hc
      rcases List.mem_cons.1 hc with rfl | hc
      · exact hb
      · exact (ih (a + 1)).2 c hc

/-- What an attached buffer reads as. -/
theorem Memory.read_ofBytes (bs : List Byte) (a x : Nat) :
    (Memory.ofBytes a bs).read x = if a ≤ x then bs.getD (x - a) Memory.blank else Memory.blank := by
  induction bs generalizing a with
  | nil => simp [Memory.ofBytes, Memory.read]
  | cons b bs ih =>
    have hstep : (Memory.ofBytes a (b :: bs)).read x = if x = a then b else (Memory.ofBytes (a + 1) bs).read x := by
      rw [Memory.ofBytes]
      split
      next hb =>
        by_cases hx : x = a
        · subst hx
          rw [ih]
          simp [hb]
        · simp [hx]
      next => simp only [Memory.read, eq_comm]
    rw [hstep, ih]
    by_cases hx : x = a
    · subst hx
      simp
    · by_cases hle : a + 1 ≤ x
      · have h1 : x - a = (x - (a + 1)) + 1 := by omega
        simp [hx, hle, Nat.le_of_succ_le hle, h1]
      · have h2 : ¬ a ≤ x := by omega
        simp [hx, hle, h2]

/-! Slots of the destination. -/

/-- Reading any offset after a slot is written: its four bytes, lowest first, and elsewhere what was there (R47, R48). -/
theorem Memory.read_writeSlot (m : Memory) (p x : Nat) (w : Pixel) :
    (m.writeSlot p w).read x =
      if slotOffset p ≤ x ∧ x < slotOffset p + 4 then pixelByte w (x - slotOffset p) else m.read x := by
  unfold Memory.writeSlot
  simp only [Memory.read_write]
  by_cases h0 : x = slotOffset p
  · subst h0; simp
  by_cases h1 : x = slotOffset p + 1
  · subst h1; simp
  by_cases h2 : x = slotOffset p + 2
  · subst h2; simp
  by_cases h3 : x = slotOffset p + 3
  · subst h3; simp
  have : ¬ (slotOffset p ≤ x ∧ x < slotOffset p + 4) := by omega
  simp [h0, h1, h2, h3, this]

/-- The four bytes of a word make the word again (R48). -/
theorem pixelByte_join (w : Pixel) : pixelByte w 3 ++ pixelByte w 2 ++ pixelByte w 1 ++ pixelByte w 0 = w := by
  ext i hi
  simp only [pixelByte, BitVec.getElem_append, BitVec.getElem_extractLsb']
  split
  · simp [BitVec.getLsbD_eq_getElem (show i < 32 from hi)]
  · split
    · have : 8 + (i - 8) = i := by omega
      simp [this, BitVec.getLsbD_eq_getElem (show i < 32 from hi)]
    · split
      · have : 16 + (i - 8 - 8) = i := by omega
        simp [this, BitVec.getLsbD_eq_getElem (show i < 32 from hi)]
      · have : 24 + (i - 8 - 8 - 8) = i := by omega
        simp [this, BitVec.getLsbD_eq_getElem (show i < 32 from hi)]

/-- The slot written holds the word; every other slot is as it was (R47). -/
theorem Memory.slot_writeSlot (m : Memory) (p q : Nat) (w : Pixel) :
    (m.writeSlot p w).slot q = if q = p then w else m.slot q := by
  unfold Memory.slot
  simp only [Memory.read_writeSlot]
  by_cases h : q = p
  · subst h
    simpa using pixelByte_join w
  · have hp : slotOffset p = 4 * p := rfl
    have hq : slotOffset q = 4 * q := rfl
    have h0 : ¬ (slotOffset p ≤ slotOffset q ∧ slotOffset q < slotOffset p + 4) := by omega
    have h1 : ¬ (slotOffset p ≤ slotOffset q + 1 ∧ slotOffset q + 1 < slotOffset p + 4) := by omega
    have h2 : ¬ (slotOffset p ≤ slotOffset q + 2 ∧ slotOffset q + 2 < slotOffset p + 4) := by omega
    have h3 : ¬ (slotOffset p ≤ slotOffset q + 3 ∧ slotOffset q + 3 < slotOffset p + 4) := by omega
    rw [if_neg h0, if_neg h1, if_neg h2, if_neg h3, if_neg h]

/-- A slot write keeps the canonical form. -/
theorem Memory.wf_writeSlot {m : Memory} (p : Nat) (w : Pixel) (h : Memory.wf m) : Memory.wf (m.writeSlot p w) :=
  Memory.wf_write _ _ (Memory.wf_write _ _ (Memory.wf_write _ _ (Memory.wf_write _ _ h)))

end Sys2Proof.Machine
end

