-- ==== Sys2Proof/Laws/State.lean ====
section
/-! SUPPORT. One lemma per field for each named update of the state: the field it writes, and every field it leaves. -/

namespace Sys2Proof.Machine

/-! `State.log`. -/

@[simp] theorem State.log_width (s : State) (e : Event) : (s.log e).width = s.width := rfl
@[simp] theorem State.log_height (s : State) (e : Event) : (s.log e).height = s.height := rfl
@[simp] theorem State.log_dstFormat (s : State) (e : Event) : (s.log e).dstFormat = s.dstFormat := rfl
@[simp] theorem State.log_srcLen (s : State) (e : Event) : (s.log e).srcLen = s.srcLen := rfl
@[simp] theorem State.log_dstLen (s : State) (e : Event) : (s.log e).dstLen = s.dstLen := rfl
@[simp] theorem State.log_hostRsp (s : State) (e : Event) : (s.log e).hostRsp = s.hostRsp := rfl
@[simp] theorem State.log_status (s : State) (e : Event) : (s.log e).status = s.status := rfl
@[simp] theorem State.log_phase (s : State) (e : Event) : (s.log e).phase = s.phase := rfl
@[simp] theorem State.log_row (s : State) (e : Event) : (s.log e).row = s.row := rfl
@[simp] theorem State.log_col (s : State) (e : Event) : (s.log e).col = s.col := rfl
@[simp] theorem State.log_yIndex (s : State) (e : Event) : (s.log e).yIndex = s.yIndex := rfl
@[simp] theorem State.log_uvCursor (s : State) (e : Event) : (s.log e).uvCursor = s.uvCursor := rfl
@[simp] theorem State.log_yb (s : State) (e : Event) : (s.log e).yb = s.yb := rfl
@[simp] theorem State.log_ub (s : State) (e : Event) : (s.log e).ub = s.ub := rfl
@[simp] theorem State.log_vb (s : State) (e : Event) : (s.log e).vb = s.vb := rfl
@[simp] theorem State.log_rm (s : State) (e : Event) : (s.log e).rm = s.rm := rfl
@[simp] theorem State.log_gm (s : State) (e : Event) : (s.log e).gm = s.gm := rfl
@[simp] theorem State.log_bm (s : State) (e : Event) : (s.log e).bm = s.bm := rfl
@[simp] theorem State.log_rk (s : State) (e : Event) : (s.log e).rk = s.rk := rfl
@[simp] theorem State.log_gk (s : State) (e : Event) : (s.log e).gk = s.gk := rfl
@[simp] theorem State.log_bk (s : State) (e : Event) : (s.log e).bk = s.bk := rfl
@[simp] theorem State.log_pix (s : State) (e : Event) : (s.log e).pix = s.pix := rfl
@[simp] theorem State.log_dstHeld (s : State) (e : Event) : (s.log e).dstHeld = s.dstHeld := rfl
@[simp] theorem State.log_srcHeld (s : State) (e : Event) : (s.log e).srcHeld = s.srcHeld := rfl
@[simp] theorem State.log_uvValid (s : State) (e : Event) : (s.log e).uvValid = s.uvValid := rfl
@[simp] theorem State.log_src (s : State) (e : Event) : (s.log e).src = s.src := rfl
@[simp] theorem State.log_dst (s : State) (e : Event) : (s.log e).dst = s.dst := rfl
@[simp] theorem State.log_srcSize (s : State) (e : Event) : (s.log e).srcSize = s.srcSize := rfl
@[simp] theorem State.log_dstSize (s : State) (e : Event) : (s.log e).dstSize = s.dstSize := rfl
@[simp] theorem State.log_host (s : State) (e : Event) : (s.log e).host = s.host := rfl
@[simp] theorem State.log_events (s : State) (e : Event) : (s.log e).events = s.events ++ [e] := rfl

/-! `State.goto`. -/

@[simp] theorem State.goto_width (s : State) (p : PhaseCode) : (s.goto p).width = s.width := rfl
@[simp] theorem State.goto_height (s : State) (p : PhaseCode) : (s.goto p).height = s.height := rfl
@[simp] theorem State.goto_dstFormat (s : State) (p : PhaseCode) : (s.goto p).dstFormat = s.dstFormat := rfl
@[simp] theorem State.goto_srcLen (s : State) (p : PhaseCode) : (s.goto p).srcLen = s.srcLen := rfl
@[simp] theorem State.goto_dstLen (s : State) (p : PhaseCode) : (s.goto p).dstLen = s.dstLen := rfl
@[simp] theorem State.goto_hostRsp (s : State) (p : PhaseCode) : (s.goto p).hostRsp = s.hostRsp := rfl
@[simp] theorem State.goto_status (s : State) (p : PhaseCode) : (s.goto p).status = s.status := rfl
@[simp] theorem State.goto_phase (s : State) (p : PhaseCode) : (s.goto p).phase = p := rfl
@[simp] theorem State.goto_row (s : State) (p : PhaseCode) : (s.goto p).row = s.row := rfl
@[simp] theorem State.goto_col (s : State) (p : PhaseCode) : (s.goto p).col = s.col := rfl
@[simp] theorem State.goto_yIndex (s : State) (p : PhaseCode) : (s.goto p).yIndex = s.yIndex := rfl
@[simp] theorem State.goto_uvCursor (s : State) (p : PhaseCode) : (s.goto p).uvCursor = s.uvCursor := rfl
@[simp] theorem State.goto_yb (s : State) (p : PhaseCode) : (s.goto p).yb = s.yb := rfl
@[simp] theorem State.goto_ub (s : State) (p : PhaseCode) : (s.goto p).ub = s.ub := rfl
@[simp] theorem State.goto_vb (s : State) (p : PhaseCode) : (s.goto p).vb = s.vb := rfl
@[simp] theorem State.goto_rm (s : State) (p : PhaseCode) : (s.goto p).rm = s.rm := rfl
@[simp] theorem State.goto_gm (s : State) (p : PhaseCode) : (s.goto p).gm = s.gm := rfl
@[simp] theorem State.goto_bm (s : State) (p : PhaseCode) : (s.goto p).bm = s.bm := rfl
@[simp] theorem State.goto_rk (s : State) (p : PhaseCode) : (s.goto p).rk = s.rk := rfl
@[simp] theorem State.goto_gk (s : State) (p : PhaseCode) : (s.goto p).gk = s.gk := rfl
@[simp] theorem State.goto_bk (s : State) (p : PhaseCode) : (s.goto p).bk = s.bk := rfl
@[simp] theorem State.goto_pix (s : State) (p : PhaseCode) : (s.goto p).pix = s.pix := rfl
@[simp] theorem State.goto_dstHeld (s : State) (p : PhaseCode) : (s.goto p).dstHeld = s.dstHeld := rfl
@[simp] theorem State.goto_srcHeld (s : State) (p : PhaseCode) : (s.goto p).srcHeld = s.srcHeld := rfl
@[simp] theorem State.goto_uvValid (s : State) (p : PhaseCode) : (s.goto p).uvValid = s.uvValid := rfl
@[simp] theorem State.goto_src (s : State) (p : PhaseCode) : (s.goto p).src = s.src := rfl
@[simp] theorem State.goto_dst (s : State) (p : PhaseCode) : (s.goto p).dst = s.dst := rfl
@[simp] theorem State.goto_srcSize (s : State) (p : PhaseCode) : (s.goto p).srcSize = s.srcSize := rfl
@[simp] theorem State.goto_dstSize (s : State) (p : PhaseCode) : (s.goto p).dstSize = s.dstSize := rfl
@[simp] theorem State.goto_host (s : State) (p : PhaseCode) : (s.goto p).host = s.host := rfl
@[simp] theorem State.goto_events (s : State) (p : PhaseCode) : (s.goto p).events = s.events := rfl

/-! `State.fail`. -/

@[simp] theorem State.fail_width (s : State) (k : FailureKind) : (s.fail k).width = s.width := rfl
@[simp] theorem State.fail_height (s : State) (k : FailureKind) : (s.fail k).height = s.height := rfl
@[simp] theorem State.fail_dstFormat (s : State) (k : FailureKind) : (s.fail k).dstFormat = s.dstFormat := rfl
@[simp] theorem State.fail_srcLen (s : State) (k : FailureKind) : (s.fail k).srcLen = s.srcLen := rfl
@[simp] theorem State.fail_dstLen (s : State) (k : FailureKind) : (s.fail k).dstLen = s.dstLen := rfl
@[simp] theorem State.fail_hostRsp (s : State) (k : FailureKind) : (s.fail k).hostRsp = s.hostRsp := rfl
@[simp] theorem State.fail_status (s : State) (k : FailureKind) : (s.fail k).status = statusWithResult s.status k.code := rfl
@[simp] theorem State.fail_phase (s : State) (k : FailureKind) : (s.fail k).phase = k.releaseHead := rfl
@[simp] theorem State.fail_row (s : State) (k : FailureKind) : (s.fail k).row = s.row := rfl
@[simp] theorem State.fail_col (s : State) (k : FailureKind) : (s.fail k).col = s.col := rfl
@[simp] theorem State.fail_yIndex (s : State) (k : FailureKind) : (s.fail k).yIndex = s.yIndex := rfl
@[simp] theorem State.fail_uvCursor (s : State) (k : FailureKind) : (s.fail k).uvCursor = s.uvCursor := rfl
@[simp] theorem State.fail_yb (s : State) (k : FailureKind) : (s.fail k).yb = s.yb := rfl
@[simp] theorem State.fail_ub (s : State) (k : FailureKind) : (s.fail k).ub = s.ub := rfl
@[simp] theorem State.fail_vb (s : State) (k : FailureKind) : (s.fail k).vb = s.vb := rfl
@[simp] theorem State.fail_rm (s : State) (k : FailureKind) : (s.fail k).rm = s.rm := rfl
@[simp] theorem State.fail_gm (s : State) (k : FailureKind) : (s.fail k).gm = s.gm := rfl
@[simp] theorem State.fail_bm (s : State) (k : FailureKind) : (s.fail k).bm = s.bm := rfl
@[simp] theorem State.fail_rk (s : State) (k : FailureKind) : (s.fail k).rk = s.rk := rfl
@[simp] theorem State.fail_gk (s : State) (k : FailureKind) : (s.fail k).gk = s.gk := rfl
@[simp] theorem State.fail_bk (s : State) (k : FailureKind) : (s.fail k).bk = s.bk := rfl
@[simp] theorem State.fail_pix (s : State) (k : FailureKind) : (s.fail k).pix = s.pix := rfl
@[simp] theorem State.fail_dstHeld (s : State) (k : FailureKind) : (s.fail k).dstHeld = s.dstHeld := rfl
@[simp] theorem State.fail_srcHeld (s : State) (k : FailureKind) : (s.fail k).srcHeld = s.srcHeld := rfl
@[simp] theorem State.fail_uvValid (s : State) (k : FailureKind) : (s.fail k).uvValid = s.uvValid := rfl
@[simp] theorem State.fail_src (s : State) (k : FailureKind) : (s.fail k).src = s.src := rfl
@[simp] theorem State.fail_dst (s : State) (k : FailureKind) : (s.fail k).dst = s.dst := rfl
@[simp] theorem State.fail_srcSize (s : State) (k : FailureKind) : (s.fail k).srcSize = s.srcSize := rfl
@[simp] theorem State.fail_dstSize (s : State) (k : FailureKind) : (s.fail k).dstSize = s.dstSize := rfl
@[simp] theorem State.fail_host (s : State) (k : FailureKind) : (s.fail k).host = s.host := rfl
@[simp] theorem State.fail_events (s : State) (k : FailureKind) : (s.fail k).events = s.events := rfl

/-! `State.start`. -/

@[simp] theorem State.start_width (s : State) : s.start.width = s.width := rfl
@[simp] theorem State.start_height (s : State) : s.start.height = s.height := rfl
@[simp] theorem State.start_dstFormat (s : State) : s.start.dstFormat = s.dstFormat := rfl
@[simp] theorem State.start_srcLen (s : State) : s.start.srcLen = s.srcLen := rfl
@[simp] theorem State.start_dstLen (s : State) : s.start.dstLen = s.dstLen := rfl
@[simp] theorem State.start_hostRsp (s : State) : s.start.hostRsp = s.hostRsp := rfl
@[simp] theorem State.start_status (s : State) : s.start.status = statusWithDone (statusWithResult s.status 0) false := rfl
@[simp] theorem State.start_phase (s : State) : s.start.phase = Phase.qinfo := rfl
@[simp] theorem State.start_row (s : State) : s.start.row = s.row := rfl
@[simp] theorem State.start_col (s : State) : s.start.col = s.col := rfl
@[simp] theorem State.start_yIndex (s : State) : s.start.yIndex = s.yIndex := rfl
@[simp] theorem State.start_uvCursor (s : State) : s.start.uvCursor = s.uvCursor := rfl
@[simp] theorem State.start_yb (s : State) : s.start.yb = s.yb := rfl
@[simp] theorem State.start_ub (s : State) : s.start.ub = s.ub := rfl
@[simp] theorem State.start_vb (s : State) : s.start.vb = s.vb := rfl
@[simp] theorem State.start_rm (s : State) : s.start.rm = s.rm := rfl
@[simp] theorem State.start_gm (s : State) : s.start.gm = s.gm := rfl
@[simp] theorem State.start_bm (s : State) : s.start.bm = s.bm := rfl
@[simp] theorem State.start_rk (s : State) : s.start.rk = s.rk := rfl
@[simp] theorem State.start_gk (s : State) : s.start.gk = s.gk := rfl
@[simp] theorem State.start_bk (s : State) : s.start.bk = s.bk := rfl
@[simp] theorem State.start_pix (s : State) : s.start.pix = s.pix := rfl
@[simp] theorem State.start_dstHeld (s : State) : s.start.dstHeld = s.dstHeld := rfl
@[simp] theorem State.start_srcHeld (s : State) : s.start.srcHeld = s.srcHeld := rfl
@[simp] theorem State.start_uvValid (s : State) : s.start.uvValid = s.uvValid := rfl
@[simp] theorem State.start_src (s : State) : s.start.src = s.src := rfl
@[simp] theorem State.start_dst (s : State) : s.start.dst = s.dst := rfl
@[simp] theorem State.start_srcSize (s : State) : s.start.srcSize = s.srcSize := rfl
@[simp] theorem State.start_dstSize (s : State) : s.start.dstSize = s.dstSize := rfl
@[simp] theorem State.start_host (s : State) : s.start.host = s.host := rfl
@[simp] theorem State.start_events (s : State) : s.start.events = s.events := rfl

/-! `State.returnToHost`. -/

@[simp] theorem State.returnToHost_width (s : State) : s.returnToHost.width = s.width := rfl
@[simp] theorem State.returnToHost_height (s : State) : s.returnToHost.height = s.height := rfl
@[simp] theorem State.returnToHost_dstFormat (s : State) : s.returnToHost.dstFormat = s.dstFormat := rfl
@[simp] theorem State.returnToHost_srcLen (s : State) : s.returnToHost.srcLen = s.srcLen := rfl
@[simp] theorem State.returnToHost_dstLen (s : State) : s.returnToHost.dstLen = s.dstLen := rfl
@[simp] theorem State.returnToHost_hostRsp (s : State) : s.returnToHost.hostRsp = s.hostRsp := rfl
@[simp] theorem State.returnToHost_status (s : State) : s.returnToHost.status = statusWithDone s.status true := rfl
@[simp] theorem State.returnToHost_phase (s : State) : s.returnToHost.phase = Phase.idle := rfl
@[simp] theorem State.returnToHost_row (s : State) : s.returnToHost.row = s.row := rfl
@[simp] theorem State.returnToHost_col (s : State) : s.returnToHost.col = s.col := rfl
@[simp] theorem State.returnToHost_yIndex (s : State) : s.returnToHost.yIndex = s.yIndex := rfl
@[simp] theorem State.returnToHost_uvCursor (s : State) : s.returnToHost.uvCursor = s.uvCursor := rfl
@[simp] theorem State.returnToHost_yb (s : State) : s.returnToHost.yb = s.yb := rfl
@[simp] theorem State.returnToHost_ub (s : State) : s.returnToHost.ub = s.ub := rfl
@[simp] theorem State.returnToHost_vb (s : State) : s.returnToHost.vb = s.vb := rfl
@[simp] theorem State.returnToHost_rm (s : State) : s.returnToHost.rm = s.rm := rfl
@[simp] theorem State.returnToHost_gm (s : State) : s.returnToHost.gm = s.gm := rfl
@[simp] theorem State.returnToHost_bm (s : State) : s.returnToHost.bm = s.bm := rfl
@[simp] theorem State.returnToHost_rk (s : State) : s.returnToHost.rk = s.rk := rfl
@[simp] theorem State.returnToHost_gk (s : State) : s.returnToHost.gk = s.gk := rfl
@[simp] theorem State.returnToHost_bk (s : State) : s.returnToHost.bk = s.bk := rfl
@[simp] theorem State.returnToHost_pix (s : State) : s.returnToHost.pix = s.pix := rfl
@[simp] theorem State.returnToHost_dstHeld (s : State) : s.returnToHost.dstHeld = s.dstHeld := rfl
@[simp] theorem State.returnToHost_srcHeld (s : State) : s.returnToHost.srcHeld = s.srcHeld := rfl
@[simp] theorem State.returnToHost_uvValid (s : State) : s.returnToHost.uvValid = s.uvValid := rfl
@[simp] theorem State.returnToHost_src (s : State) : s.returnToHost.src = s.src := rfl
@[simp] theorem State.returnToHost_dst (s : State) : s.returnToHost.dst = s.dst := rfl
@[simp] theorem State.returnToHost_srcSize (s : State) : s.returnToHost.srcSize = s.srcSize := rfl
@[simp] theorem State.returnToHost_dstSize (s : State) : s.returnToHost.dstSize = s.dstSize := rfl
@[simp] theorem State.returnToHost_host (s : State) : s.returnToHost.host = s.host := rfl
@[simp] theorem State.returnToHost_events (s : State) : s.returnToHost.events = s.events := rfl

/-! `State.takeCommand` writes the pending moves alone. -/

@[simp] theorem State.takeCommand_width (s : State) : s.takeCommand.width = s.width := by
  unfold State.takeCommand; split <;> rfl
@[simp] theorem State.takeCommand_height (s : State) : s.takeCommand.height = s.height := by
  unfold State.takeCommand; split <;> rfl
@[simp] theorem State.takeCommand_dstFormat (s : State) : s.takeCommand.dstFormat = s.dstFormat := by
  unfold State.takeCommand; split <;> rfl
@[simp] theorem State.takeCommand_srcLen (s : State) : s.takeCommand.srcLen = s.srcLen := by
  unfold State.takeCommand; split <;> rfl
@[simp] theorem State.takeCommand_dstLen (s : State) : s.takeCommand.dstLen = s.dstLen := by
  unfold State.takeCommand; split <;> rfl
@[simp] theorem State.takeCommand_hostRsp (s : State) : s.takeCommand.hostRsp = s.hostRsp := by
  unfold State.takeCommand; split <;> rfl
@[simp] theorem State.takeCommand_status (s : State) : s.takeCommand.status = s.status := by
  unfold State.takeCommand; split <;> rfl
@[simp] theorem State.takeCommand_phase (s : State) : s.takeCommand.phase = s.phase := by
  unfold State.takeCommand; split <;> rfl
@[simp] theorem State.takeCommand_row (s : State) : s.takeCommand.row = s.row := by
  unfold State.takeCommand; split <;> rfl
@[simp] theorem State.takeCommand_col (s : State) : s.takeCommand.col = s.col := by
  unfold State.takeCommand; split <;> rfl
@[simp] theorem State.takeCommand_yIndex (s : State) : s.takeCommand.yIndex = s.yIndex := by
  unfold State.takeCommand; split <;> rfl
@[simp] theorem State.takeCommand_uvCursor (s : State) : s.takeCommand.uvCursor = s.uvCursor := by
  unfold State.takeCommand; split <;> rfl
@[simp] theorem State.takeCommand_yb (s : State) : s.takeCommand.yb = s.yb := by
  unfold State.takeCommand; split <;> rfl
@[simp] theorem State.takeCommand_ub (s : State) : s.takeCommand.ub = s.ub := by
  unfold State.takeCommand; split <;> rfl
@[simp] theorem State.takeCommand_vb (s : State) : s.takeCommand.vb = s.vb := by
  unfold State.takeCommand; split <;> rfl
@[simp] theorem State.takeCommand_rm (s : State) : s.takeCommand.rm = s.rm := by
  unfold State.takeCommand; split <;> rfl
@[simp] theorem State.takeCommand_gm (s : State) : s.takeCommand.gm = s.gm := by
  unfold State.takeCommand; split <;> rfl
@[simp] theorem State.takeCommand_bm (s : State) : s.takeCommand.bm = s.bm := by
  unfold State.takeCommand; split <;> rfl
@[simp] theorem State.takeCommand_rk (s : State) : s.takeCommand.rk = s.rk := by
  unfold State.takeCommand; split <;> rfl
@[simp] theorem State.takeCommand_gk (s : State) : s.takeCommand.gk = s.gk := by
  unfold State.takeCommand; split <;> rfl
@[simp] theorem State.takeCommand_bk (s : State) : s.takeCommand.bk = s.bk := by
  unfold State.takeCommand; split <;> rfl
@[simp] theorem State.takeCommand_pix (s : State) : s.takeCommand.pix = s.pix := by
  unfold State.takeCommand; split <;> rfl
@[simp] theorem State.takeCommand_dstHeld (s : State) : s.takeCommand.dstHeld = s.dstHeld := by
  unfold State.takeCommand; split <;> rfl
@[simp] theorem State.takeCommand_srcHeld (s : State) : s.takeCommand.srcHeld = s.srcHeld := by
  unfold State.takeCommand; split <;> rfl
@[simp] theorem State.takeCommand_uvValid (s : State) : s.takeCommand.uvValid = s.uvValid := by
  unfold State.takeCommand; split <;> rfl
@[simp] theorem State.takeCommand_src (s : State) : s.takeCommand.src = s.src := by
  unfold State.takeCommand; split <;> rfl
@[simp] theorem State.takeCommand_dst (s : State) : s.takeCommand.dst = s.dst := by
  unfold State.takeCommand; split <;> rfl
@[simp] theorem State.takeCommand_srcSize (s : State) : s.takeCommand.srcSize = s.srcSize := by
  unfold State.takeCommand; split <;> rfl
@[simp] theorem State.takeCommand_dstSize (s : State) : s.takeCommand.dstSize = s.dstSize := by
  unfold State.takeCommand; split <;> rfl
@[simp] theorem State.takeCommand_events (s : State) : s.takeCommand.events = s.events := by
  unfold State.takeCommand; split <;> rfl

theorem State.truthful_takeCommand (s : State) : s.takeCommand.Truthful ↔ s.Truthful := by simp [State.Truthful]

theorem State.takeCommand_host_of_pending (s : State) {b : BitVec 8} (h : s.pendingCommand = some b) :
    s.takeCommand.host = s.host.tail := by
  simp [State.takeCommand, h]

/-- The pending command is the head of the pending moves. -/
theorem State.pendingCommand_eq_some (s : State) (b : BitVec 8) :
    s.pendingCommand = some b ↔ ∃ ms, s.host = .write (.cmd b) :: ms := by
  unfold State.pendingCommand
  split
  next b' ms heq => simp [heq]
  next hne =>
    simp only [reduceCtorEq, false_iff, not_exists]
    intro ms heq
    exact hne b ms heq

end Sys2Proof.Machine
end

