-- ==== Sys2Proof/Laws/Ops.lean ====
section
/-! SUPPORT. What each shared operation can do, said once: status fields, operands, primitives, arithmetic, host moves. -/

namespace Sys2Proof.Machine

/-! The fields of `STATUS`. -/

@[simp] theorem statusResult_withResult (w : BitVec 8) (r : BitVec 4) : statusResult (statusWithResult w r) = r := by
  ext i hi
  interval_cases i <;> simp [statusResult, statusWithResult]

@[simp] theorem statusDone_withResult (w : BitVec 8) (r : BitVec 4) :
    statusDone (statusWithResult w r) = statusDone w := by
  simp [statusDone, statusWithResult]

@[simp] theorem statusResult_withDone (w : BitVec 8) (d : Bool) :
    statusResult (statusWithDone w d) = statusResult w := by
  ext i hi
  cases d <;> interval_cases i <;> simp [statusResult, statusWithDone]

@[simp] theorem statusDone_withDone (w : BitVec 8) (d : Bool) : statusDone (statusWithDone w d) = d := by
  cases d <;> simp [statusDone, statusWithDone]

@[simp] theorem statusReserved_withResult (w : BitVec 8) (r : BitVec 4) :
    statusWithResult w r &&& 0xE0#8 = w &&& 0xE0#8 := by
  ext i hi
  interval_cases i <;> simp [statusWithResult]

@[simp] theorem statusReserved_withDone (w : BitVec 8) (d : Bool) : statusWithDone w d &&& 0xE0#8 = w &&& 0xE0#8 := by
  ext i hi
  cases d <;> interval_cases i <;> simp [statusWithDone]

/-! `RESULT` and `DONE` after the named updates. -/

@[simp] theorem State.result_log (s : State) (e : Event) : (s.log e).result = s.result := rfl
@[simp] theorem State.result_goto (s : State) (p : PhaseCode) : (s.goto p).result = s.result := rfl
@[simp] theorem State.result_fail (s : State) (k : FailureKind) : (s.fail k).result = k.code := by simp [State.result]
@[simp] theorem State.result_start (s : State) : s.start.result = 0 := by simp [State.result]
@[simp] theorem State.result_returnToHost (s : State) : s.returnToHost.result = s.result := by simp [State.result]
@[simp] theorem State.done_log (s : State) (e : Event) : (s.log e).done = s.done := rfl
@[simp] theorem State.done_goto (s : State) (p : PhaseCode) : (s.goto p).done = s.done := rfl
@[simp] theorem State.done_fail (s : State) (k : FailureKind) : (s.fail k).done = s.done := by simp [State.done]
@[simp] theorem State.done_start (s : State) : s.start.done = false := by simp [State.done]
@[simp] theorem State.done_returnToHost (s : State) : s.returnToHost.done = true := by simp [State.done]

/-! Reading registers and the two spaces. -/

@[simp] theorem readReg_some {α : Type} (r : Reg) (v : α) : readReg r (some v) = .ok v := rfl

@[simp] theorem readReg_none {α : Type} (r : Reg) : readReg r (none : Option α) = .error (.noValue r) := rfl

theorem readReg_eq_ok {α : Type} {r : Reg} {o : Option α} {v : α} (h : readReg r o = .ok v) : o = some v := by
  cases o <;> simp_all

/-- All that `SrcRead` can do when it answers (R46). -/
theorem State.srcRead_eq_ok {s t : State} {i : Nat} {b : Byte} :
    s.srcRead i = .ok (b, t) ↔
      s.srcHeld = true ∧ i < s.srcLen ∧ i < s.srcSize ∧ b = s.src.read i ∧ t = s.log (.rd i) := by
  unfold State.srcRead
  split
  next h => simp [h.1, h.2, eq_comm]
  next h =>
    simp only [reduceCtorEq, false_iff]
    exact fun hr => h ⟨hr.1, hr.2.1, hr.2.2.1⟩

theorem State.srcRead_of_held {s : State} {i : Nat} (hh : s.srcHeld = true) (hi : i < s.srcLen)
    (hz : i < s.srcSize) : s.srcRead i = .ok (s.src.read i, s.log (.rd i)) := by
  simp [State.srcRead, hh, hi, hz]

/-- When `SrcRead` does not answer (R46, R150, R161). -/
theorem State.srcRead_error {s : State} {i : Nat} (h : s.srcHeld = false ∨ s.srcLen ≤ i ∨ s.srcSize ≤ i) :
    s.srcRead i = .error (.badSrcRead i) := by
  refine if_neg fun hr => ?_
  rcases h with h | h | h
  · simp [h] at hr
  · omega
  · omega

/-- All that `DstWrite` can do when it answers (R47). -/
theorem State.dstWrite_eq_ok {s t : State} {p : Nat} {w : Pixel} :
    s.dstWrite p w = .ok t ↔
      s.dstHeld = true ∧ p < s.dstLen ∧ p < s.dstSize ∧
        t = { s with dst := s.dst.writeSlot p w }.log (.wr p w) := by
  unfold State.dstWrite
  split
  next h => simp [h.1, h.2, eq_comm]
  next h =>
    simp only [reduceCtorEq, false_iff]
    exact fun hr => h ⟨hr.1, hr.2.1, hr.2.2.1⟩

theorem State.dstWrite_of_held {s : State} {p : Nat} {w : Pixel} (hh : s.dstHeld = true) (hp : p < s.dstLen)
    (hz : p < s.dstSize) : s.dstWrite p w = .ok ({ s with dst := s.dst.writeSlot p w }.log (.wr p w)) := by
  simp [State.dstWrite, hh, hp, hz]

/-- When `DstWrite` does not answer (R47, R150, R161). -/
theorem State.dstWrite_error {s : State} {p : Nat} {w : Pixel}
    (h : s.dstHeld = false ∨ s.dstLen ≤ p ∨ s.dstSize ≤ p) : s.dstWrite p w = .error (.badDstWrite p) := by
  refine if_neg fun hr => ?_
  rcases h with h | h | h
  · simp [h] at hr
  · omega
  · omega

/-! `RESULT` where it is met, and the beginning of a call. -/

/-- A code that names an outcome is that outcome (R68, R72). -/
theorem State.readResult_of_le {s : State} (h : s.result.toNat ≤ 6) : s.readResult = .ok s.result := if_pos h

/-- A reserved code is the fault of the model (D31, U10). -/
theorem State.readResult_of_lt {s : State} (h : 6 < s.result.toNat) :
    s.readResult = .error (.reservedResult s.result) := if_neg (Nat.not_le.2 h)

/-- A host read of `STATUS` that names an outcome returns it with its reserved bits 0 (R18, R68). -/
theorem State.crRead_status_of_le {s : State} (h : s.result.toNat ≤ 6) :
    s.crRead .status = .ok (statusRead s.status).toNat := by
  simp [State.crRead, bind, Except.bind, State.readResult_of_le h]

/-- A host read of `STATUS` that meets a reserved code is the fault of the model (D31, U10). -/
theorem State.crRead_status_of_lt {s : State} (h : 6 < s.result.toNat) :
    s.crRead .status = .error (.reservedResult s.result) := by
  simp [State.crRead, bind, Except.bind, State.readResult_of_lt h]

/-- A truthful host begins a call (R81, R161). -/
theorem State.beginCall_of_truthful {s : State} (h : s.Truthful) : s.beginCall = .next s.start := if_pos h

/-- A descriptor larger than an attached buffer is refused (R161, U6). -/
theorem State.beginCall_of_untruthful {s : State} (h : ¬ s.Truthful) :
    s.beginCall = .refused .untruthfulDescriptor := if_neg h

@[simp] theorem settle_ok (s : State) : settle (.ok s) = .next s := rfl

@[simp] theorem settle_error (f : Fault) : settle (.error f) = .fault f := rfl

theorem settle_eq_next {x : Except Fault State} {t : State} : settle x = .next t ↔ x = .ok t := by
  cases x <;> simp [settle]

/-- All that a write of `START` can do when it goes on (R81, R161). -/
theorem State.beginCall_eq_next {s t : State} : s.beginCall = .next t ↔ s.Truthful ∧ t = s.start := by
  unfold State.beginCall
  split
  next h => exact ⟨fun e => ⟨h, (Host.Outcome.next.inj e).symm⟩, fun e => congrArg _ e.2.symm⟩
  next h => exact ⟨nofun, fun e => absurd e.1 h⟩

/-- All that a host read can do when it goes on: record what it read (R11 to R18; log 5). -/
theorem State.applyMove_read_eq_next {s t : State} {r : CReg} :
    s.applyMove (.read r) = .next t ↔ ∃ v, s.crRead r = .ok v ∧ t = s.log (.crRead r v) := by
  cases h : s.crRead r <;> simp [State.applyMove, h, bind, Except.bind, eq_comm]

/-! The integer arithmetic of the datapath is exact at the registers' widths (R118). -/

/-- A chroma operand as an integer (R64, R103). -/
theorem chromaOperand_toInt (b : Byte) : (chromaOperand b).toInt = (b.toNat : Int) - 128 := by
  have := b.isLt
  rw [chromaOperand, BitVec.toInt_ofInt, Int.bmod_eq_of_le] <;> simp only [Config.chromaBias] <;> omega

/-- A luma operand as an integer (R64, R104). -/
theorem lumaOperand_toNat (b : Byte) : ((lumaOperand b).toNat : Int) = max ((b.toNat : Int) - 16) 0 := by
  have := b.isLt
  rw [lumaOperand, BitVec.toNat_ofInt]
  simp only [Config.lumaBias]
  omega

/-- The R sum fits its register (R116, R118). -/
theorem matrixR_exact (yb : Luma) (vb : Chroma) :
    (BitVec.ofInt 21 (matrixR yb.toNat vb.toInt)).toInt = matrixR yb.toNat vb.toInt := by
  have := yb.isLt
  have := BitVec.le_toInt vb
  have := BitVec.toInt_lt (x := vb)
  rw [BitVec.toInt_ofInt, Int.bmod_eq_of_le] <;> simp only [matrixR, Config.coefY, Config.coefRV] <;> omega

/-- The G sum fits its register (R116, R118). -/
theorem matrixG_exact (yb : Luma) (ub vb : Chroma) :
    (BitVec.ofInt 21 (matrixG yb.toNat ub.toInt vb.toInt)).toInt = matrixG yb.toNat ub.toInt vb.toInt := by
  have := yb.isLt
  have := BitVec.le_toInt vb
  have := BitVec.toInt_lt (x := vb)
  have := BitVec.le_toInt ub
  have := BitVec.toInt_lt (x := ub)
  rw [BitVec.toInt_ofInt, Int.bmod_eq_of_le] <;> simp only [matrixG, Config.coefY, Config.coefGV, Config.coefGU] <;> omega

/-- The B sum fits its register (R116, R118). -/
theorem matrixB_exact (yb : Luma) (ub : Chroma) :
    (BitVec.ofInt 21 (matrixB yb.toNat ub.toInt)).toInt = matrixB yb.toNat ub.toInt := by
  have := yb.isLt
  have := BitVec.le_toInt ub
  have := BitVec.toInt_lt (x := ub)
  rw [BitVec.toInt_ofInt, Int.bmod_eq_of_le] <;> simp only [matrixB, Config.coefY, Config.coefBU] <;> omega

theorem clampChannel_nonneg (x : Int) : 0 ≤ clampChannel x := by
  simp only [clampChannel, Config.clampMax]
  omega

theorem clampChannel_le (x : Int) : clampChannel x ≤ 262143 := by
  simp only [clampChannel, Config.clampMax]
  omega

/-- A clamped value fits its register (R117). -/
theorem clampChannel_exact (x : Int) : ((BitVec.ofInt 18 (clampChannel x)).toNat : Int) = clampChannel x := by
  have := clampChannel_nonneg x
  have := clampChannel_le x
  rw [BitVec.toNat_ofInt]
  omega

/-- The packed word by its lanes' positions (R126): what `pixel` of R130 returns. -/
theorem packWord_eq_or (rk gk bk : Channel) :
    packWord rk gk bk =
      BitVec.ofNat 32
        (0xFF000000 ||| ((bk.toNat >>> 10) <<< 16) ||| ((gk.toNat >>> 10) <<< 8) ||| (rk.toNat >>> 10)) := by
  change (Config.alpha ++ lane bk ++ lane gk ++ lane rk : BitVec (8 + 8 + 8 + 8)) = BitVec.ofNat (8 + 8 + 8 + 8) _
  apply BitVec.eq_of_getLsbD_eq
  intro i hi
  simp only [lane, Config.alpha, BitVec.getLsbD_append, BitVec.getLsbD_extractLsb', BitVec.getLsbD_ofNat,
    Nat.testBit_or, Nat.testBit_shiftLeft, Nat.testBit_shiftRight, BitVec.testBit_toNat]
  interval_cases i <;> simp [Nat.testBit, Nat.shiftRight_eq_div_pow]

/-! The decoder and the step. -/

/-- A state placed to run a code runs it next. -/
@[simp] theorem State.fetch_placeCode (s : State) (c : Code) : (s.placeCode c).fetch = c := by
  cases c with
  | cmd b => simp [State.placeCode, State.fetch, State.pendingCommand]
  | phase p =>
    by_cases h : p = Phase.idle
    · have hnone : State.pendingCommand { s with phase := p, host := s.host.dropWhile HostMove.isCommand } = none := by
        unfold State.pendingCommand
        split
        next b ms heq =>
          have := List.head?_dropWhile_not HostMove.isCommand s.host
          simp only at heq
          rw [heq] at this
          simp [HostMove.isCommand] at this
        next => rfl
      simp only [State.placeCode, if_pos h, State.fetch, hnone]
    · simp only [State.placeCode, if_neg h, State.fetch]

/-- A step at a code that names an operation is that operation. -/
theorem step_of_decode {s : State} {i : Instr} (h : decode s.fetch = .ok i) : step s = exec i s := by
  simp [step, h]

/-- Outside `IDLE` a step is the operation `PHASE` names. -/
theorem step_of_phase {s : State} {i : Instr} (hp : s.phase ≠ Phase.idle) (h : decodePhase s.phase = .ok i) :
    step s = exec i s := by
  simp [step, State.fetch, hp, decode, h]

/-- All that the host's turn can do: nothing, or its next move in `IDLE`. -/
theorem State.hostTurn_cases (s : State) :
    (s.hostTurn = .next s ∧ (s.phase = Phase.idle → s.host = [])) ∨
      ∃ m ms, s.phase = Phase.idle ∧ s.host = m :: ms ∧ s.hostTurn = { s with host := ms }.applyMove m := by
  unfold State.hostTurn
  split
  next hp =>
    split
    next hh => exact .inl ⟨rfl, fun _ => hh⟩
    next m ms hh => exact .inr ⟨m, ms, hp, hh, rfl⟩
  next hp => exact .inl ⟨rfl, fun h => absurd h hp⟩

/-- In `IDLE` with a move pending, the host's turn is that move. -/
theorem State.hostTurn_of_move {s : State} {m : HostMove} {ms : List HostMove} (hp : s.phase = Phase.idle)
    (hh : s.host = m :: ms) : s.hostTurn = { s with host := ms }.applyMove m := by
  simp [State.hostTurn, hp, hh]

/-- What the host reads of `STATUS`: `RESULT`, and 16 more if `DONE` (R68). -/
theorem statusRead_toNat (w : BitVec 8) :
    (statusRead w).toNat = (statusResult w).toNat + (if statusDone w then 16 else 0) := by
  revert w
  decide

/-- The word the slots of an attached buffer read as (R48). -/
theorem Memory.slot_ofSlots (ws : List Pixel) (p : Nat) : (Memory.ofSlots ws).slot p = ws.getD p 0 := by
  have key : ∀ (ws : List Pixel) (p k : Nat), k < 4 →
      (ws.flatMap pixelBytes).getD (4 * p + k) Memory.blank = pixelByte (ws.getD p 0) k := by
    intro ws
    induction ws with
    | nil => intro p k _; simp [pixelByte, Memory.blank]
    | cons w ws ih =>
      intro p k hk
      rw [List.flatMap_cons]
      cases p with
      | zero => interval_cases k <;> simp [pixelBytes]
      | succ p =>
        have e : 4 * (p + 1) + k = 4 * p + k + 1 + 1 + 1 + 1 := by omega
        rw [e]
        simpa [pixelBytes] using ih p k hk
  have h0 := key ws p 0 (by omega)
  have h1 := key ws p 1 (by omega)
  have h2 := key ws p 2 (by omega)
  have h3 := key ws p 3 (by omega)
  simp only [Nat.add_zero] at h0
  simp [Memory.slot, Memory.ofSlots, Memory.read_ofBytes, slotOffset, -List.getD_eq_getElem?_getD, h0, h1, h2, h3,
    pixelByte_join]

end Sys2Proof.Machine
end

