-- ==== Sys2Proof/Laws/Exec.lean ====
section
/-! SUPPORT. For each meaning that can meet a fault of the model, all that it can do when it goes on; and for a step
outside `IDLE`, which meaning it is. -/

namespace Sys2Proof.Machine

theorem execRowstart_eq_next {s t : State} :
    execRowstart s = .next t ↔ ∃ row, s.row = some row ∧
      t = { s with
        uvCursor := some (s.chromaBase row), col := some 0, uvValid := some false, ub := none, vb := none,
        phase := Phase.ldvu } := by
  rw [execRowstart, settle_eq_next]
  cases h : s.row with
  | none => simp [bind, Except.bind]
  | some row => simp [bind, Except.bind, State.goto, eq_comm]

theorem execLdvu_eq_next {s t : State} :
    execLdvu s = .next t ↔ ∃ c, s.uvCursor = some c ∧ s.srcHeld = true ∧ c + 1 < s.srcLen ∧ c + 1 < s.srcSize ∧
      t = { s with
        vb := some (chromaOperand (s.src.read c)), ub := some (chromaOperand (s.src.read (c + 1))),
        uvCursor := some (c + 2), uvValid := some true, events := s.events ++ [.rd c] ++ [.rd (c + 1)],
        phase := Phase.ldy } := by
  rw [execLdvu, settle_eq_next]
  cases h : s.uvCursor with
  | none => simp [bind, Except.bind]
  | some c =>
    by_cases hok : s.srcHeld = true ∧ c + 1 < s.srcLen ∧ c + 1 < s.srcSize
    · obtain ⟨hh, hl, hz⟩ := hok
      have h1 : c < s.srcLen := by omega
      have h2 : c < s.srcSize := by omega
      simp [bind, Except.bind, State.srcRead, State.goto, State.log, hh, hl, hz, h1, h2, eq_comm]
    · constructor
      · intro ht
        exfalso
        have hbad : (s.log (.rd c)).srcRead (c + 1) = .error (.badSrcRead (c + 1)) := if_neg hok
        by_cases hv : s.srcHeld = true ∧ c < s.srcLen ∧ c < s.srcSize
        · simp [bind, Except.bind, State.srcRead_of_held hv.1 hv.2.1 hv.2.2, hbad] at ht
        · simp [bind, Except.bind, State.srcRead, hv] at ht
      · rintro ⟨x, hx, hh, hl, hz, -⟩
        cases hx
        exact absurd ⟨hh, hl, hz⟩ hok

theorem execLdy_eq_next {s t : State} :
    execLdy s = .next t ↔ ∃ n, s.yIndex = some n ∧ s.srcHeld = true ∧ n < s.srcLen ∧ n < s.srcSize ∧
      t = { s with
        yb := some (lumaOperand (s.src.read n)), events := s.events ++ [.rd n], phase := Phase.matrix } := by
  rw [execLdy, settle_eq_next]
  cases h : s.yIndex with
  | none => simp [bind, Except.bind]
  | some n =>
    by_cases hok : s.srcHeld = true ∧ n < s.srcLen ∧ n < s.srcSize
    · simp [bind, Except.bind, State.srcRead, State.goto, State.log, hok, h, eq_comm]
    · simp only [bind, Except.bind, readReg_some, State.srcRead, if_neg hok, reduceCtorEq, false_iff]
      rintro ⟨x, hx, hh, hl, hz, -⟩
      cases hx
      exact hok ⟨hh, hl, hz⟩

theorem execNext_eq_next {s t : State} :
    execNext s = .next t ↔ ∃ n c, s.yIndex = some n ∧ s.col = some c ∧
      ((c + 1 ≠ s.width ∧
        t = { s with
          yIndex := some (n + 1), col := some (c + 1),
          phase := if bit0Clear (c + 1) then Phase.ldvu else Phase.ldy }) ∨
      (c + 1 = s.width ∧ ∃ r, s.row = some r ∧
        t = { s with
          yIndex := some (n + 1), col := some (c + 1), row := some (r + 1),
          phase := if r + 1 = s.height then Phase.unpin else Phase.rowstart })) := by
  rw [execNext, settle_eq_next]
  cases hn : s.yIndex with
  | none => simp [bind, Except.bind]
  | some n =>
    cases hc : s.col with
    | none => simp [bind, Except.bind]
    | some c =>
      by_cases hw : c + 1 = s.width
      · cases hr : s.row with
        | none => simp [bind, Except.bind, hw]
        | some r =>
          simp only [bind, Except.bind, readReg_some, State.goto, if_pos hw, Except.ok.injEq, Option.some.injEq]
          constructor
          · rintro rfl
            exact ⟨n, c, rfl, rfl, .inr ⟨hw, r, rfl, rfl⟩⟩
          · rintro ⟨_, _, rfl, rfl, ⟨hne, -⟩ | ⟨-, _, rfl, rfl⟩⟩
            · exact absurd hw hne
            · rfl
      · simp only [bind, Except.bind, readReg_some, State.goto, if_neg hw, Except.ok.injEq, Option.some.injEq]
        constructor
        · rintro rfl
          exact ⟨n, c, rfl, rfl, .inl ⟨hw, rfl⟩⟩
        · rintro ⟨_, _, rfl, rfl, ⟨-, rfl⟩ | ⟨he, -⟩⟩
          · rfl
          · exact absurd he hw

theorem execMatrix_eq_next {s t : State} :
    execMatrix s = .next t ↔ s.uvValid = some true ∧ ∃ y u v, s.yb = some y ∧ s.ub = some u ∧ s.vb = some v ∧
      t = { s with
        rm := some (BitVec.ofInt 21 (matrixR y.toNat v.toInt)),
        gm := some (BitVec.ofInt 21 (matrixG y.toNat u.toInt v.toInt)),
        bm := some (BitVec.ofInt 21 (matrixB y.toNat u.toInt)), phase := Phase.clamp } := by
  unfold execMatrix
  by_cases hv : s.uvValid = some true
  · rw [if_pos hv, settle_eq_next]
    cases s.yb <;> cases s.vb <;> cases s.ub <;> simp [bind, Except.bind, State.goto, hv, eq_comm]
  · simp [hv]

theorem execClamp_eq_next {s t : State} :
    execClamp s = .next t ↔ ∃ r g b, s.rm = some r ∧ s.gm = some g ∧ s.bm = some b ∧
      t = { s with
        rk := some (BitVec.ofInt 18 (clampChannel r.toInt)), gk := some (BitVec.ofInt 18 (clampChannel g.toInt)),
        bk := some (BitVec.ofInt 18 (clampChannel b.toInt)), phase := Phase.pack } := by
  rw [execClamp, settle_eq_next]
  cases s.rm <;> cases s.gm <;> cases s.bm <;> simp [bind, Except.bind, State.goto, eq_comm]

theorem execPack_eq_next {s t : State} :
    execPack s = .next t ↔ ∃ r g b, s.rk = some r ∧ s.gk = some g ∧ s.bk = some b ∧
      t = { s with pix := some (packWord r g b), phase := Phase.stpix } := by
  rw [execPack, settle_eq_next]
  cases s.rk <;> cases s.gk <;> cases s.bk <;> simp [bind, Except.bind, State.goto, eq_comm]

theorem execStpix_eq_next {s t : State} :
    execStpix s = .next t ↔ ∃ w n, s.pix = some w ∧ s.yIndex = some n ∧ s.dstHeld = true ∧ n < s.dstLen ∧
      n < s.dstSize ∧
      t = { s with dst := s.dst.writeSlot n w, events := s.events ++ [.wr n w], phase := Phase.next } := by
  rw [execStpix, settle_eq_next]
  cases hx : s.pix with
  | none => simp [bind, Except.bind]
  | some w =>
    cases hy : s.yIndex with
    | none => simp [bind, Except.bind]
    | some n =>
      by_cases hok : s.dstHeld = true ∧ n < s.dstLen ∧ n < s.dstSize
      · simp [bind, Except.bind, State.dstWrite, State.goto, State.log, hok, hx, hy, eq_comm]
      · simp only [bind, Except.bind, readReg_some, State.dstWrite, if_neg hok, reduceCtorEq, false_iff]
        rintro ⟨_, x, -, hx, hh, hl, hz, -⟩
        cases hx
        exact hok ⟨hh, hl, hz⟩

theorem execRet_eq_next {s t : State} : execRet s = .next t ↔ s.result.toNat ≤ 6 ∧ t = s.returnToHost := by
  rw [execRet, settle_eq_next]
  by_cases h : s.result.toNat ≤ 6
  · simp [bind, Except.bind, State.readResult_of_le h, h, eq_comm]
  · simp [bind, Except.bind, State.readResult_of_lt (Nat.not_le.1 h), h]

theorem execConvert_eq_next {s t : State} :
    execConvert s = .next t ↔ s.phase = Phase.idle ∧ s.Truthful ∧ t = s.takeCommand.start := by
  unfold execConvert State.beginCall
  by_cases hp : s.phase = Phase.idle
  · rw [if_pos hp, ite_congr (propext s.truthful_takeCommand) (fun _ => rfl) fun _ => rfl]
    split
    next h => exact ⟨fun e => ⟨hp, h, (Host.Outcome.next.inj e).symm⟩, fun e => congrArg _ e.2.2.symm⟩
    next h => exact ⟨nofun, fun e => absurd e.2.1 h⟩
  · simp [hp]

/-- The phases that decode are the codes of the operations. -/
theorem decodePhase_eq_ok {p : PhaseCode} {i : Instr} (h : decodePhase p = .ok i) : encode i = .phase p := by
  revert h
  unfold decodePhase
  have hp : p = BitVec.ofNat 5 p.toNat := by simp
  split <;> rename_i heq <;> (try rw [heq] at hp) <;> intro h <;> cases h <;> rw [hp] <;> rfl

/-- All that a step outside `IDLE` can do when it goes on: run the operation whose code stands in `PHASE`. -/
theorem step_eq_next_of_busy {s t : State} (hp : s.phase ≠ Phase.idle) (h : step s = .next t) :
    ∃ i, encode i = .phase s.phase ∧ exec i s = .next t := by
  cases hd : decodePhase s.phase with
  | ok i => exact ⟨i, decodePhase_eq_ok hd, by rw [← step_of_phase hp hd, h]⟩
  | error e =>
    exfalso
    have he : e = .reservedPhase s.phase := by
      revert hd
      unfold decodePhase
      split <;> simp [eq_comm]
    have hf : s.fetch = .phase s.phase := if_neg hp
    simp [step, hf, decode, hd, he, State.undecoded] at h

/-- All that a step in `IDLE` can do: `START`, an ignored command, or the host's turn. -/
theorem step_of_idle {s : State} (hp : s.phase = Phase.idle) :
    step s = s.hostTurn := by
  unfold step
  cases hc : s.pendingCommand with
  | none =>
    have hf : s.fetch = .phase Phase.idle := by simp [State.fetch, hp, hc]
    rw [hf]
    rfl
  | some b =>
    have hf : s.fetch = .cmd b := by simp [State.fetch, hp, hc]
    obtain ⟨ms, hms⟩ := (s.pendingCommand_eq_some b).1 hc
    have hturn : s.hostTurn = { s with host := ms }.crWrite (.cmd b) := by
      simp [State.hostTurn, hp, hms, State.applyMove]
    have htake : s.takeCommand = { s with host := ms } := by
      simp [State.takeCommand, hc, hms]
    rw [hf, hturn]
    by_cases hb : b = Config.cmdStart
    · simp [decode, decodeCommand, hb, exec, execConvert, hp, htake, State.crWrite]
    · simp only [decode, decodeCommand, if_neg hb, State.undecoded, htake, State.crWrite]

end Sys2Proof.Machine
end

