-- ==== Sys2Proof/Laws/Layout.lean ====
section
/-! SUPPORT. The arithmetic of the two layouts, and how a packed word relates to the pixel function. -/

namespace Sys2Proof.Machine

/-- A pixel's luma index and slot lie below the plane size. -/
theorem lumaIndex_lt {w h j i : Nat} (hj : j < h) (hi : i < w) : lumaIndex w j i < w * h := by
  unfold lumaIndex
  calc j * w + i < j * w + w := by omega
    _ = (j + 1) * w := by ring
    _ ≤ h * w := Nat.mul_le_mul_right _ hj
    _ = w * h := by ring

/-- Two pixels of a frame share no index. -/
theorem lumaIndex_inj {w j i j' i' : Nat} (hi : i < w) (hi' : i' < w)
    (h : lumaIndex w j i = lumaIndex w j' i') : j = j' ∧ i = i' := by
  unfold lumaIndex at h
  have hw : 0 < w := by omega
  have h1 : (j * w + i) / w = j := by rw [Nat.add_comm, Nat.add_mul_div_right _ _ hw, Nat.div_eq_of_lt hi]; simp
  have h2 : (j' * w + i') / w = j' := by rw [Nat.add_comm, Nat.add_mul_div_right _ _ hw, Nat.div_eq_of_lt hi']; simp
  have hj : j = j' := by rw [← h1, ← h2, h]
  subst hj
  exact ⟨rfl, by omega⟩

/-- A pixel's chroma bytes lie inside an even frame. -/
theorem uIndex_lt {w h j i : Nat} (hw : w % 2 = 0) (hh : h % 2 = 0) (hj : j < h) (hi : i < w) :
    uIndex w h j i < frameLength w h := by
  obtain ⟨a, rfl⟩ : ∃ a, w = 2 * a := ⟨w / 2, by omega⟩
  obtain ⟨b, rfl⟩ : ∃ b, h = 2 * b := ⟨h / 2, by omega⟩
  unfold uIndex vIndex frameLength
  have h1 : j / 2 + 1 ≤ b := by omega
  have h2 : 2 * (i / 2) + 1 < 2 * a := by omega
  have h3 : (j / 2 + 1) * (2 * a) ≤ b * (2 * a) := Nat.mul_le_mul_right _ h1
  have h4 : 2 * a * (2 * b) / 2 = b * (2 * a) := by
    rw [show 2 * a * (2 * b) = b * (2 * a) * 2 by ring, Nat.mul_div_cancel _ (by decide)]
  have h5 : (j / 2 + 1) * (2 * a) = j / 2 * (2 * a) + 2 * a := by ring
  omega

/-- The two spellings of a frame's length agree on even widths (R43). -/
theorem mul_three_halves {w h : Nat} (hw : w % 2 = 0) : w * h * 3 / 2 = w * h + w * h / 2 := by
  have : (w * h) % 2 = 0 := by rw [Nat.mul_mod, hw]; simp
  omega

/-- Channels that hold the clamped values of a pixel pack to the pixel function's word (R126, R130). -/
theorem packWord_eq_pixel (y u v : Byte) (rk gk bk : Channel)
    (hr : (rk.toNat : Int) =
      (matrixClamp (max ((y.toNat : Int) - 16) 0) ((u.toNat : Int) - 128) ((v.toNat : Int) - 128)).1)
    (hg : (gk.toNat : Int) =
      (matrixClamp (max ((y.toNat : Int) - 16) 0) ((u.toNat : Int) - 128) ((v.toNat : Int) - 128)).2.1)
    (hb : (bk.toNat : Int) =
      (matrixClamp (max ((y.toNat : Int) - 16) 0) ((u.toNat : Int) - 128) ((v.toNat : Int) - 128)).2.2) :
    packWord rk gk bk = pixel y u v := by
  rw [packWord_eq_or]
  unfold pixel
  simp only [← hr, ← hg, ← hb, Int.toNat_natCast]

/-- A frame written up to a slot is written up to any earlier one. -/
theorem State.Written_mono {s : State} {n m : Nat} (h : s.Written n) (hm : m ≤ n) : s.Written m :=
  fun j i hj hi hl => h j i hj hi (by omega)

/-- A run of one more step begins with a step. -/
theorem run_succ {s t : State} {n : Nat} (h : step s = .next t) : core.run (n + 1) s = core.run n t := by
  have h' : core.step s = .next t := h
  simp only [Host.Core.run, h']

end Sys2Proof.Machine
end

