-- ==== Sys2Proof/Laws/PerInstr.lean ====
section
/-! SUPPORT. The statements made one per operation. -/

namespace Sys2Proof.Laws

/-- The operation is well-formed, its code names an operation, and its code decodes to it (R67, R70, R76). -/
def CodeRoundTrip.Statement (i : Instr) : Prop :=
  i.wellFormed = true ∧ (encode i).wellFormed = true ∧ decode (encode i) = .ok i

theorem CodeRoundTrip.idle : CodeRoundTrip.Statement .idle := ⟨rfl, rfl, rfl⟩
theorem CodeRoundTrip.qinfo : CodeRoundTrip.Statement .qinfo := ⟨rfl, rfl, rfl⟩
theorem CodeRoundTrip.chkfmt : CodeRoundTrip.Statement .chkfmt := ⟨rfl, rfl, rfl⟩
theorem CodeRoundTrip.chkdim : CodeRoundTrip.Statement .chkdim := ⟨rfl, rfl, rfl⟩
theorem CodeRoundTrip.lockdst : CodeRoundTrip.Statement .lockdst := ⟨rfl, rfl, rfl⟩
theorem CodeRoundTrip.pinsrc : CodeRoundTrip.Statement .pinsrc := ⟨rfl, rfl, rfl⟩
theorem CodeRoundTrip.chklen : CodeRoundTrip.Statement .chklen := ⟨rfl, rfl, rfl⟩
theorem CodeRoundTrip.framestart : CodeRoundTrip.Statement .framestart := ⟨rfl, rfl, rfl⟩
theorem CodeRoundTrip.rowstart : CodeRoundTrip.Statement .rowstart := ⟨rfl, rfl, rfl⟩
theorem CodeRoundTrip.ldvu : CodeRoundTrip.Statement .ldvu := ⟨rfl, rfl, rfl⟩
theorem CodeRoundTrip.ldy : CodeRoundTrip.Statement .ldy := ⟨rfl, rfl, rfl⟩
theorem CodeRoundTrip.matrix : CodeRoundTrip.Statement .matrix := ⟨rfl, rfl, rfl⟩
theorem CodeRoundTrip.clamp : CodeRoundTrip.Statement .clamp := ⟨rfl, rfl, rfl⟩
theorem CodeRoundTrip.pack : CodeRoundTrip.Statement .pack := ⟨rfl, rfl, rfl⟩
theorem CodeRoundTrip.stpix : CodeRoundTrip.Statement .stpix := ⟨rfl, rfl, rfl⟩
theorem CodeRoundTrip.next : CodeRoundTrip.Statement .next := ⟨rfl, rfl, rfl⟩
theorem CodeRoundTrip.unpin : CodeRoundTrip.Statement .unpin := ⟨rfl, rfl, rfl⟩
theorem CodeRoundTrip.unlock : CodeRoundTrip.Statement .unlock := ⟨rfl, rfl, rfl⟩
theorem CodeRoundTrip.ret : CodeRoundTrip.Statement .ret := ⟨rfl, rfl, rfl⟩
theorem CodeRoundTrip.convert : CodeRoundTrip.Statement .convert := ⟨rfl, rfl, rfl⟩

end Sys2Proof.Laws
end

