-- ==== Sys2Proof/Tests/Slice0.lean ====
section
/-! SUPPORT. The model's own tests: decoding of words written out from the tables, the checks of WellFormed, single steps
against 95_test_vectors, and for every statement with hypotheses a concrete state that meets them. -/

namespace Sys2Proof.Tests

open Sys2Proof.Machine

/-! Decoding: every code of R70 and the command of R67, bit by bit. -/

theorem test_decode_idle : decode (.phase 0b00000#5) = .ok .idle := by decide
theorem test_decode_qinfo : decode (.phase 0b00001#5) = .ok .qinfo := by decide
theorem test_decode_chkfmt : decode (.phase 0b00010#5) = .ok .chkfmt := by decide
theorem test_decode_chkdim : decode (.phase 0b00011#5) = .ok .chkdim := by decide
theorem test_decode_lockdst : decode (.phase 0b00100#5) = .ok .lockdst := by decide
theorem test_decode_pinsrc : decode (.phase 0b00101#5) = .ok .pinsrc := by decide
theorem test_decode_chklen : decode (.phase 0b00110#5) = .ok .chklen := by decide
theorem test_decode_framestart : decode (.phase 0b00111#5) = .ok .framestart := by decide
theorem test_decode_rowstart : decode (.phase 0b01000#5) = .ok .rowstart := by decide
theorem test_decode_ldvu : decode (.phase 0b01001#5) = .ok .ldvu := by decide
theorem test_decode_ldy : decode (.phase 0b01010#5) = .ok .ldy := by decide
theorem test_decode_matrix : decode (.phase 0b01011#5) = .ok .matrix := by decide
theorem test_decode_clamp : decode (.phase 0b01100#5) = .ok .clamp := by decide
theorem test_decode_pack : decode (.phase 0b01101#5) = .ok .pack := by decide
theorem test_decode_stpix : decode (.phase 0b01110#5) = .ok .stpix := by decide
theorem test_decode_next : decode (.phase 0b01111#5) = .ok .next := by decide
theorem test_decode_unpin : decode (.phase 0b10000#5) = .ok .unpin := by decide
theorem test_decode_unlock : decode (.phase 0b10001#5) = .ok .unlock := by decide
theorem test_decode_ret : decode (.phase 0b10010#5) = .ok .ret := by decide
theorem test_decode_convert : decode (.cmd 0b00000001#8) = .ok .convert := by decide

/-- R70, R72: 19 and 31 are reserved. -/
theorem test_decode_reserved_phase : decode (.phase 0b10011#5) = .error (.reservedPhase 19) ∧
    decode (.phase 0b11111#5) = .error (.reservedPhase 31) := by decide

/-- R67, R72: every command byte but 0x01 is reserved. -/
theorem test_decode_reserved_command : decode (.cmd 0x00) = .error (.reservedCommand 0) ∧
    decode (.cmd 0x02) = .error (.reservedCommand 2) ∧ decode (.cmd 0xFF) = .error (.reservedCommand 255) := by decide

/-- Words of spec/opcode_table.json, the one word both formats share (log 9) among them. -/
theorem test_table_words : decodeTableWord 8 0x00 = some .idle ∧ decodeTableWord 8 0x01 = some .convert ∧
    decodeTableWord 8 0x02 = some .chkfmt ∧ decodeTableWord 8 0x12 = some .ret ∧ decodeTableWord 8 0x13 = none ∧
    decodeTableWord 5 0x01 = some .qinfo := by decide

/-! What WellFormed refuses. -/

theorem test_phase_19_ill_formed : wellFormedPhase 18 = true ∧ wellFormedPhase 19 = false := by decide
theorem test_command_2_ill_formed : wellFormedCommand 1 = true ∧ wellFormedCommand 2 = false := by decide
theorem test_code_ill_formed : (Code.phase 31).wellFormed = false ∧ (Code.cmd 0).wellFormed = false := by decide
theorem test_instr_well_formed : Instr.wellFormed .convert = true := by decide
theorem test_wide_width_unfit : ¬ (HostMove.write (.width (2 ^ Config.dimBits))).Fits :=
  fun h => absurd (show 2 ^ Config.dimBits < 2 ^ Config.dimBits from h) (Nat.lt_irrefl _)
theorem test_long_source_unfit : ¬ (HostMove.write (.srcLen (2 ^ Config.idxBits))).Fits :=
  fun h => absurd (show 2 ^ Config.idxBits < 2 ^ Config.idxBits from h) (Nat.lt_irrefl _)

/-! Helper states. -/

/-- A call on a 2 by 2 frame, at a phase; the source is luma `51 91 10 80`, pair V = F0, U = 5A (rows of P2). -/
def call (p : PhaseCode) : State :=
  { State.reset with
    phase := p, width := 2, height := 2, dstFormat := 1, srcLen := 6, dstLen := 4, hostRsp := 0b111
    srcSize := 6, dstSize := 4
    src := Memory.ofBytes 0 [0x51, 0x91, 0x10, 0x80, 0xF0, 0x5A] }

/-- The same inside the pixel loop, both buffers held, before the first pixel's chroma. -/
def loop (p : PhaseCode) : State :=
  { call p with
    dstHeld := true, srcHeld := true, row := some 0, col := some 0, yIndex := some 0, uvCursor := some 4
    uvValid := some false }

/-- The same with the chroma pair loaded: V = 112, U = -38 (R103's example). -/
def paired (p : PhaseCode) : State :=
  { loop p with uvCursor := some 6, uvValid := some true, vb := some 112#8, ub := some (BitVec.ofInt 8 (-38)) }

/-- The matrix operands of a row of 2.3. -/
def operands (y : Luma) (u v : Int) : State :=
  { paired Phase.matrix with yb := some y, ub := some (BitVec.ofInt 8 u), vb := some (BitVec.ofInt 8 v) }

/-- The counters of a row of the NEXT table of 2.2, on a 4 by 2 frame. -/
def counters (row col y : Nat) : State :=
  { paired Phase.next with width := 4, row := some row, col := some col, yIndex := some y }

/-- The state an outcome goes on in. -/
def after (o : Host.Outcome State Fault Refusal) : Option State :=
  match o with
  | .next s => some s
  | .fault _ | .refused _ => none

/-! Single steps, against 95_test_vectors. -/

/-- R81's example: STATUS 0x12, CMD <- 1. -/
theorem test_convert_starts :
    (after (step { call 0 with status := 0x12, host := [.write (.cmd 1)] })).map (fun s => (s.status, s.phase)) =
      some (0x00, Phase.qinfo) := by decide

/-- U6: one source byte declared too many is refused; the exact length, and one declared too few, are taken. -/
theorem test_start_truthful :
    step { call 0 with srcLen := 7, host := [.write (.cmd 1)] } = .refused .untruthfulDescriptor ∧
      (after (step { call 0 with host := [.write (.cmd 1)] })).isSome = true ∧
      (after (step { call 0 with srcLen := 5, host := [.write (.cmd 1)] })).isSome = true := by
  refine ⟨rfl, ?_, ?_⟩ <;> decide

/-- R81, R67: CMD <- 2 changes nothing. -/
theorem test_idle_ignores_command_2 :
    step { call 0 with status := 0x12, host := [.write (.cmd 2)] } = .next { call 0 with status := 0x12 } := by rfl

/-- V1: INFO_OK = 0. -/
theorem test_qinfo_refused :
    (after (step { call Phase.qinfo with hostRsp := 0b110 })).map (fun s => (s.status, s.phase)) =
      some (0x01, Phase.ret) := by decide

/-- V3: format 255. -/
theorem test_chkfmt_255 :
    (after (step { call Phase.chkfmt with dstFormat := 255 })).map (fun s => (s.status, s.phase)) =
      some (0x02, Phase.ret) := by decide

/-- V5: an odd height alone. -/
theorem test_chkdim_odd_height :
    (after (step { call Phase.chkdim with height := 3 })).map (fun s => (s.status, s.phase)) =
      some (0x05, Phase.ret) := by decide

/-- V7: LOCK_OK = 0. -/
theorem test_lockdst_refused :
    (after (step { call Phase.lockdst with hostRsp := 0b101 })).map (fun s => (s.status, s.phase, s.dstHeld)) =
      some (0x03, Phase.ret, false) := by decide

/-- V8: SRC_OK = 0, the destination held. -/
theorem test_pinsrc_refused :
    (after (step { call Phase.pinsrc with hostRsp := 0b011, dstHeld := true })).map
      (fun s => (s.status, s.phase, s.dstHeld)) = some (0x04, Phase.unlock, true) := by decide

/-- V9 and V11: one source byte short; one slot too many. -/
theorem test_chklen_short :
    (after (step { call Phase.chklen with srcLen := 5 })).map (fun s => (s.status, s.phase)) =
      some (0x06, Phase.unpin) := by decide
theorem test_chklen_slot_too_many :
    (after (step { call Phase.chklen with dstLen := 5 })).map (fun s => (s.status, s.phase)) =
      some (0x06, Phase.unpin) := by decide

/-- V14: an empty frame. -/
theorem test_framestart_empty :
    (after (step { call Phase.framestart with width := 0 })).map (fun s => (s.yIndex, s.row, s.phase)) =
      some (some 0, some 0, Phase.unpin) := by decide

/-- 2.2: width 2, height 4, row 3 starts its cursor at 10. -/
theorem test_rowstart_row_3 :
    (after (step { loop Phase.rowstart with height := 4, row := some 3 })).map
      (fun s => (s.uvCursor, s.col, s.uvValid, s.ub)) = some (some 10, some 0, some false, none) := by decide

/-- R103's example: F0, 5A at the cursor give Vb = 112, Ub = -38. -/
theorem test_ldvu_pair :
    (after (step (loop Phase.ldvu))).map
      (fun s => (s.vb.map BitVec.toInt, s.ub.map BitVec.toInt, s.uvCursor, s.uvValid)) =
      some (some 112, some (-38), some 6, some true) := by decide

/-- R104: byte 0x51 gives 65; byte 0x0F is floored, not wrapped. -/
theorem test_ldy_51 : ((after (step (paired Phase.ldy))).bind (·.yb)) = some 65 := by decide
theorem test_ldy_floor :
    ((after (step { paired Phase.ldy with src := Memory.ofBytes 0 [0x0F] })).bind (·.yb)) = some 0 := by decide

/-- M16, and M4 with its two minima. -/
theorem test_matrix_m16 :
    (after (step (operands 65 (-38) 112))).map
      (fun s => (s.rm.map BitVec.toInt, s.gm.map BitVec.toInt, s.bm.map BitVec.toInt)) =
      some (some 260488, some (-616), some (-1028)) := by decide
theorem test_matrix_m4 :
    (after (step (operands 0 (-128) (-128)))).map
      (fun s => (s.rm.map BitVec.toInt, s.gm.map BitVec.toInt, s.bm.map BitVec.toInt)) =
      some (some (-209152), some 157824, some (-264448)) := by decide

/-- 2.3: -1, 262144 and 262143 clamp to 0, 262143 and 262143. -/
theorem test_clamp_edges :
    (after (step { paired Phase.clamp with
      rm := some (BitVec.ofInt 21 (-1)), gm := some 262144#21, bm := some 262143#21 })).map
      (fun s => (s.rk.map BitVec.toNat, s.gk.map BitVec.toNat, s.bk.map BitVec.toNat)) =
      some (some 0, some 262143, some 262143) := by decide

/-- K18 and K19. -/
theorem test_pack_k18 :
    ((after (step { paired Phase.pack with rk := some 1024#18, gk := some 2048#18, bk := some 3072#18 })).bind
      (·.pix)) = some 0xFF030201 := by decide
theorem test_pack_k19 :
    ((after (step { paired Phase.pack with rk := some 107452#18, gk := some 262143#18, bk := some 108164#18 })).bind
      (·.pix)) = some 0xFF69FF68 := by decide

/-- 2.4: slot 3, bytes 12 to 15 become 68 FF 69 FF. -/
theorem test_stpix_slot_3 :
    (after (step { paired Phase.stpix with yIndex := some 3, pix := some 0xFF69FF68 })).map
      (fun s => (s.dst, s.events)) =
      some ([(12, 0x68), (13, 0xFF), (14, 0x69), (15, 0xFF)], [.wr 3 0xFF69FF68]) := by decide

/-- The NEXT table of 2.2: the second and the fourth row. -/
theorem test_next_even :
    (after (step (counters 0 1 1))).map (fun s => (s.row, s.col, s.yIndex, s.phase)) =
      some (some 0, some 2, some 2, Phase.ldvu) := by decide
theorem test_next_row_end :
    (after (step (counters 0 3 3))).map (fun s => (s.row, s.col, s.yIndex, s.phase)) =
      some (some 1, some 4, some 4, Phase.rowstart) := by decide

/-- R89, R90: the source is released first. -/
theorem test_unpin :
    (after (step (paired Phase.unpin))).map (fun s => (s.srcHeld, s.dstHeld, s.events, s.phase)) =
      some (false, true, [.relSrc], Phase.unlock) := by decide
theorem test_unlock :
    (after (step { paired Phase.unlock with srcHeld := false })).map (fun s => (s.dstHeld, s.events, s.phase)) =
      some (false, [.relDst], Phase.ret) := by decide

/-- V9: STATUS 0x16 at the return. -/
theorem test_ret :
    (after (step { call Phase.ret with status := 0x06 })).map (fun s => (s.status, s.phase)) =
      some (0x16, Phase.idle) := by decide

/-- U10: RESULT 7 is a fault where RET and a host read of STATUS meet it; RESULT 6 is an outcome. -/
theorem test_ret_reserved_result :
    step { call Phase.ret with status := 0x07 } = .fault (.reservedResult 7) ∧
      step { call 0 with status := 0x07, host := [.read .status] } = .fault (.reservedResult 7) ∧
      (after (step { call 0 with status := 0x16, host := [.read .status] })).map (·.events) =
        some [.crRead .status 0x16] := by
  refine ⟨rfl, rfl, ?_⟩
  decide

/-- The pixel function on M3, M4, M25 and M27. -/
theorem test_pixel_m3 : pixel 255 255 255 = 0xFFFF7DFF := by decide
theorem test_pixel_m4 : pixel 0 0 0 = 0xFF009A00 := by decide
theorem test_pixel_m25 : pixel 255 0 0 = 0xFF13FF49 := by decide
theorem test_pixel_m27 : pixel 100 200 50 = 0xFFF38500 := by decide

/-- A9 and A10 of 2.2. -/
theorem test_indices_a9 : lumaIndex 6 3 5 = 23 ∧ vIndex 6 4 3 5 = 34 ∧ uIndex 6 4 3 5 = 35 := by decide
theorem test_indices_a10 :
    lumaIndex 640 479 639 = 307199 ∧ vIndex 640 480 479 639 = 460798 ∧ uIndex 640 480 479 639 = 460799 := by decide

/-- R163: the step counts of a 2 by 2, a 6 by 4 and an empty frame. -/
theorem test_call_steps :
    (call 0).callSteps = 38 ∧ State.callSteps { call 0 with width := 6, height := 4, srcLen := 36, dstLen := 24 } = 170 ∧
      State.callSteps { call 0 with width := 0, dstLen := 0 } = 10 := by decide

/-- The table word is what the next step fetches, a pending command before it notwithstanding. -/
theorem test_fetch_word :
    (State.withFetchWord State.reset 8 0x09).fetch = .phase 9 ∧ (State.withFetchWord State.reset 8 0x01).fetch = .cmd 1 ∧
      (State.withFetchWord { State.reset with host := [.write (.cmd 1)] } 8 0x00).fetch = .phase 0 := by decide

/-! Witnesses: for every statement with hypotheses, a state that meets them, each clause in turn. -/

theorem witness_DecodeAndEncodeAgree : decode (.phase 18#5) = .ok .ret ∧ decode (.cmd 1#8) = .ok .convert := by decide

theorem witness_StepRunsTheDecodedOperation :
    (call Phase.ldvu).phase ≠ Phase.idle ∧ decode (call Phase.ldvu).fetch = .ok .ldvu ∧
      State.fetch { call 0 with host := [.write (.cmd 1)] } = .cmd 1 ∧
      decode (State.fetch { call 0 with host := [.read .cmd, .write (.cmd 1)] }) = .ok .idle ∧
      decodeTableWord 8 0x0E = some .stpix := by decide

theorem witness_StepRunsTheDecodedOperation_idle :
    (call 0).phase = Phase.idle ∧ ∀ b ms, (call 0).host ≠ .write (.cmd b) :: ms :=
  ⟨rfl, fun _ _ h => nomatch h⟩

theorem witness_ReservedPhaseFaults : 18 < (call 19).phase.toNat ∧ 18 < (call 31).phase.toNat := by decide

theorem witness_CommandPortTakesStartAlone :
    (call 0).phase = Phase.idle ∧ State.host { call 0 with host := [.write (.cmd 0x01)] } = .write (.cmd 0x01) :: [] ∧
      ((call 0).srcLen ≤ (call 0).srcSize ∧ (call 0).dstLen ≤ (call 0).dstSize) ∧
      (call 0).srcSize < State.srcLen { call 0 with srcLen := 7 } ∧
      (call 0).dstSize < State.dstLen { call 0 with dstLen := 5 } ∧
      State.host { call 0 with host := [.write (.cmd 0x00), .reset] } = .write (.cmd 0x00) :: [.reset] ∧
      (0x00 : BitVec 8) ≠ 0x01 := by decide

theorem witness_IdleWaits :
    (call 0).host = [] ∧ (call Phase.ret).phase ≠ Phase.idle := by decide

theorem witness_ConvertBeginsTheCall :
    (call 0).phase = Phase.idle ∧ ((call 0).srcLen ≤ (call 0).srcSize ∧ (call 0).dstLen ≤ (call 0).dstSize) ∧
      (call 0).srcSize < State.srcLen { call 0 with srcLen := 7 } ∧
      (call 0).dstSize < State.dstLen { call 0 with dstLen := 5 } ∧ (call Phase.next).phase ≠ Phase.idle := by decide

theorem witness_ReleasesAndReturnComplete :
    (call Phase.ret).result.toNat ≤ 6 ∧ (State.result { call Phase.ret with status := 0x06 }).toNat ≤ 6 := by decide

theorem witness_ReservedResultFaults :
    6 < (State.result { call Phase.ret with status := 0x07 }).toNat ∧
      6 < (State.result { call 0 with status := 0x0F, host := [.read .status] }).toNat ∧
      State.host { call 0 with status := 0x0F, host := [.read .status] } = .read .status :: [] ∧
      (call 0).phase = Phase.idle := by decide

theorem witness_replies :
    (call 1).hostRsp.getLsbD 0 = true ∧ (call 1).hostRsp.getLsbD 1 = true ∧ (call 1).hostRsp.getLsbD 2 = true ∧
      (State.reset).hostRsp.getLsbD 0 = false ∧ (State.reset).hostRsp.getLsbD 1 = false ∧
      (State.reset).hostRsp.getLsbD 2 = false := by decide

theorem witness_ChkfmtAcceptsFormatOneAlone : (call 2).dstFormat = 1 ∧ State.reset.dstFormat ≠ 1 := by decide

theorem witness_ChkdimRejectsOddDimensions :
    (Even (call 3).width ∧ Even (call 3).height) ∧ Odd (State.width { call 3 with width := 3 }) ∧
      Odd (State.height { call 3 with height := 1 }) := by decide

theorem witness_ChklenChecksBothLengths :
    ((call 6).dstLen = (call 6).width * (call 6).height ∧
        (call 6).srcLen ≥ (call 6).width * (call 6).height + (call 6).width * (call 6).height / 2) ∧
      State.srcLen { call 6 with srcLen := 5 } < (call 6).width * (call 6).height + (call 6).width * (call 6).height / 2 ∧
      State.dstLen { call 6 with dstLen := 5 } ≠ (call 6).width * (call 6).height := by decide

theorem witness_FramestartClearsTheCounters :
    State.reset.width = 0 ∧ (call 7).width ≠ 0 ∧ (call 7).height ≠ 0 := by decide

theorem witness_rowstart :
    (loop 8).row = some 0 ∧ (0 : Nat) = 2 * 0 ∧ State.row { loop 8 with row := some 1 } = some 1 ∧
      (1 : Nat) = 2 * 0 + 1 := by decide

/-- The last pair of the frame: index 5 is the last byte. -/
theorem witness_LdvuLoadsTheChromaPair :
    (loop 9).uvCursor = some 4 ∧ (loop 9).srcHeld = true ∧ 4 + 1 < (loop 9).srcLen ∧ 4 + 1 < (loop 9).srcSize := by decide

theorem witness_LdyLoadsTheLuma :
    (paired 10).yIndex = some 0 ∧ (paired 10).srcHeld = true ∧ 0 < (paired 10).srcLen ∧ 0 < (paired 10).srcSize := by decide

/-- The four cases of NEXT on a 4 by 2 frame. -/
theorem witness_NextAdvancesTheRaster :
    ((counters 0 1 1).yIndex = some 1 ∧ (counters 0 1 1).col = some 1 ∧ 1 + 1 ≠ (counters 0 1 1).width ∧ Even (1 + 1)) ∧
      ((counters 0 2 2).yIndex = some 2 ∧ (counters 0 2 2).col = some 2 ∧ 2 + 1 ≠ (counters 0 2 2).width ∧
        Odd (2 + 1)) ∧
      ((counters 0 3 3).row = some 0 ∧ (counters 0 3 3).col = some 3 ∧ 3 + 1 = (counters 0 3 3).width ∧
        0 + 1 ≠ (counters 0 3 3).height) ∧
      ((counters 1 3 7).row = some 1 ∧ (counters 1 3 7).col = some 3 ∧ 3 + 1 = (counters 1 3 7).width ∧
        1 + 1 = (counters 1 3 7).height) := by decide

theorem witness_MatrixIsExact :
    (operands 239 127 (-128)).uvValid = some true ∧ (operands 239 127 (-128)).yb = some 239 ∧
      (operands 239 127 (-128)).ub = some 127 ∧ (operands 239 127 (-128)).vb = some 128 := by decide

theorem witness_ClampBoundsEachChannel :
    State.rm { paired 12 with rm := some 1, gm := some 2, bm := some 3 } = some 1 ∧
      State.gm { paired 12 with rm := some 1, gm := some 2, bm := some 3 } = some 2 ∧
      State.bm { paired 12 with rm := some 1, gm := some 2, bm := some 3 } = some 3 := by decide

theorem witness_MatrixClampIsMonotone : (0 : Int) ≤ 239 := by decide

theorem witness_PackKeepsTheTopEightBits :
    State.rk { paired 13 with rk := some 1, gk := some 2, bk := some 3 } = some 1 ∧
      State.gk { paired 13 with rk := some 1, gk := some 2, bk := some 3 } = some 2 ∧
      State.bk { paired 13 with rk := some 1, gk := some 2, bk := some 3 } = some 3 := by decide

theorem witness_DatapathComputesThePixelFunction :
    (operands 65 (-38) 112).uvValid = some true ∧ (operands 65 (-38) 112).yb = some (lumaOperand 0x51) ∧
      (operands 65 (-38) 112).ub = some (chromaOperand 0x5A) ∧
      (operands 65 (-38) 112).vb = some (chromaOperand 0xF0) := by decide

/-- The last slot. -/
theorem witness_StpixStoresOneSlot :
    State.pix { paired 14 with pix := some 7, yIndex := some 3 } = some 7 ∧
      State.yIndex { paired 14 with pix := some 7, yIndex := some 3 } = some 3 ∧ (paired 14).dstHeld = true ∧
      3 < (paired 14).dstLen ∧ 3 < (paired 14).dstSize := by decide

theorem witness_ReadingNoneFaults :
    State.reset.row = none ∧ State.reset.uvCursor = none ∧ State.reset.yIndex = none ∧
      State.reset.uvValid ≠ some true ∧ (paired 11).uvValid = some true ∧ (paired 11).yb = none ∧
      State.reset.rm = none ∧ State.reset.rk = none ∧ State.reset.pix = none ∧
      State.yIndex { counters 0 3 3 with col := none } ≠ none ∧ State.col { counters 0 3 3 with col := none } = none ∧
      State.yIndex { counters 0 3 3 with row := none } = some 3 ∧
      State.col { counters 0 3 3 with row := none } = some 3 ∧ 3 + 1 = (counters 0 3 3).width ∧
      State.row { counters 0 3 3 with row := none } = none := by decide

/-- The first index out of the declared range, and of a buffer shorter than declared; the last in range with the buffer
not held; V the last byte, of the declared range and of the buffer. -/
theorem witness_AccessOutsideTheBufferFaults :
    (State.yIndex { paired 10 with yIndex := some 6 } = some 6 ∧ (paired 10).srcLen ≤ 6) ∧
      (State.yIndex { paired 10 with yIndex := some 5, srcSize := 5 } = some 5 ∧
        State.srcSize { paired 10 with yIndex := some 5, srcSize := 5 } ≤ 5) ∧
      (State.yIndex { call 10 with yIndex := some 5 } = some 5 ∧ (call 10).srcHeld = false) ∧
      (State.uvCursor { loop 9 with uvCursor := some 6 } = some 6 ∧ (loop 9).srcLen ≤ 6) ∧
      (State.uvCursor { loop 9 with uvCursor := some 5 } = some 5 ∧ (loop 9).srcHeld = true ∧
        5 < (loop 9).srcLen ∧ 5 < (loop 9).srcSize ∧ (loop 9).srcLen = 5 + 1) ∧
      (State.uvCursor { loop 9 with srcSize := 5 } = some 4 ∧ 4 < (loop 9).srcLen ∧
        State.srcSize { loop 9 with srcSize := 5 } = 4 + 1) ∧
      (State.pix { paired 14 with pix := some 7, yIndex := some 4 } = some 7 ∧
        State.yIndex { paired 14 with pix := some 7, yIndex := some 4 } = some 4 ∧ (paired 14).dstLen ≤ 4) ∧
      (State.yIndex { paired 14 with pix := some 7, yIndex := some 3, dstSize := 3 } = some 3 ∧
        State.dstSize { paired 14 with pix := some 7, yIndex := some 3, dstSize := 3 } ≤ 3) := by decide

theorem witness_HostWritesLandInTheirRegister :
    (call 0).phase = Phase.idle ∧
      State.host { call 0 with host := [.write (.width 640)] } = .write (.width 640) :: [] ∧
      State.host { call 0 with host := [.write (.status 0xFF)] } = .write (.status 0xFF) :: [] := by decide

theorem witness_HostReadsReturnTheRegister :
    (call 0).phase = Phase.idle ∧ State.host { call 0 with host := [.read .status] } = .read .status :: [] ∧
      (State.result { call 0 with host := [.read .status] }).toNat ≤ 6 := by decide

theorem witness_ResetBetweenCalls :
    (call 0).phase = Phase.idle ∧ State.host { call 0 with host := [.reset] } = .reset :: [] := by decide

theorem witness_AttachedBuffersReadBack :
    (call 0).phase = Phase.idle ∧
      State.host { call 0 with host := [.attachSrc [0, 7]] } = .attachSrc [0, 7] :: [] ∧
      State.host { call 0 with host := [.attachDst [0xDEADBEEF]] } = .attachDst [0xDEADBEEF] :: [] := by decide

/-! The rules of the whole machine: a step that goes on, from a state that meets the invariant. -/

/-- The first pixel, ready to be stored: P2's slot 4 gives Y 51, U 5A, V F0 the word FF0000FE (P3 slot 4). -/
def storing : State := { paired Phase.stpix with pix := some 0xFF0000FE }

/-- The last pixel, all four words in place. -/
def finishing : State :=
  { paired Phase.next with
    row := some 1, col := some 1, yIndex := some 3
    dst := Memory.ofSlots [0xFF0000FE, 0xFF4949FF, 0xFF0000B2, 0xFF3536FF] }

theorem loop_in_frame (p : PhaseCode) : (loop p).InFrame := by
  have h : statusResult 0 = 0 ∧ statusDone 0 = false := by decide
  refine ⟨⟨rfl, rfl⟩, h, ⟨?_, ?_⟩, ⟨rfl, ?_⟩, ?_, ?_⟩ <;> simp [loop, call]

theorem witness_inv_reset : State.reset.Inv := by
  refine ⟨by decide, by decide, by decide, by decide, by decide, rfl, rfl⟩

theorem witness_inv_loading : (loop Phase.ldvu).Inv := by
  refine ⟨by decide, by decide, by decide, by decide, by decide, ?_⟩
  refine ⟨0, 0, ⟨loop_in_frame _, rfl, rfl, by decide, by decide, rfl⟩, rfl, rfl, ?_⟩
  intro j i _ _ h
  simp [lumaIndex] at h

theorem witness_inv_storing : storing.Inv := by
  refine ⟨by decide, by decide, by decide, by decide, by decide, ?_⟩
  refine ⟨0, 0, ⟨loop_in_frame Phase.stpix, rfl, rfl, by decide, by decide, rfl⟩,
    ⟨rfl, by decide, by decide, rfl⟩, by decide, ?_⟩
  intro j i _ _ h
  simp [lumaIndex] at h

theorem witness_inv_finishing : finishing.Inv := by
  refine ⟨by decide, by decide, by decide, by decide, by decide, ?_⟩
  refine ⟨1, 1, ⟨loop_in_frame Phase.next, rfl, rfl, by decide, by decide, rfl⟩, ⟨rfl, by decide, by decide, rfl⟩, ?_⟩
  intro j i hj hi _
  change j < 2 at hj
  change i < 2 at hi
  interval_cases j <;> interval_cases i <;> decide

/-- Steps that go on, at a check, a load, the store, the end of the frame and the return. -/
theorem witness_steps_go_on :
    (after (step (call Phase.qinfo))).isSome = true ∧ (after (step (loop Phase.ldvu))).isSome = true ∧
      (after (step storing)).isSome = true ∧ (after (step finishing)).isSome = true ∧
      (after (step (call Phase.ret))).isSome = true ∧ (loop Phase.ldvu).phase ≠ Phase.idle ∧
      6 < (loop Phase.ldvu).phase.toNat ∧ storing.phase ≠ Phase.ret := by decide

/-- Steps in IDLE that go on: START over leftovers, reset, and a move that leaves STATUS alone. -/
theorem witness_OnlyStartChecksReturnAndResetWriteStatus :
    (after (step { call 0 with status := 0x12, host := [.write (.cmd 1)] })).isSome = true ∧
      State.pendingCommand { call 0 with status := 0x12, host := [.write (.cmd 1)] } = some 0x01 ∧
      (after (step { call 0 with status := 0x12, host := [.reset] })).map (·.status) = some 0x00 ∧
      (after (step { call 0 with status := 0x12, host := [.write (.status 0)] })).map (·.status) = some 0x12 := by decide

/-- A host that declares one source byte too many, about to begin: the one state of the invariant with no next. -/
theorem witness_NoFaultFromTheInvariant :
    State.Inv { call 0 with srcLen := 7, host := [.write (.cmd 1)] } ∧
      State.StartsUntruthfully { call 0 with srcLen := 7, host := [.write (.cmd 1)] } ∧
      ¬ State.StartsUntruthfully { call 0 with host := [.write (.cmd 1)] } := by
  refine ⟨⟨by decide, by decide, by decide, by decide, by decide, rfl, rfl⟩, ⟨rfl, rfl, by decide⟩, ?_⟩
  exact fun h => h.2.2 (by decide)

theorem witness_ChromaPairIsReusedOnOddColumns :
    (paired Phase.next).phase = Phase.next ∧ (paired Phase.next).col = some 0 ∧ Even 0 ∧
      Even (paired Phase.next).width ∧ 0 < (paired Phase.next).width ∧
      (after (step (paired Phase.next))).isSome = true := by decide

theorem witness_StepKeepsTheSpacesCanonical :
    Memory.wf storing.src ∧ Memory.wf storing.dst ∧ (after (step storing)).isSome = true := by decide

theorem witness_EveryNextCountsOnePixel :
    finishing.phase = Phase.next ∧ (after (step finishing)).map (·.phase) = some Phase.unpin ∧
      8 ≤ storing.phase.toNat ∧ storing.phase ≠ Phase.next := by decide

/-- The width invariant holds at an empty frame whatever `DIM_BITS` is. -/
theorem witness_WidthsSufficeAtEveryStep :
    State.reset.Inv ∧ State.reset.Fits ∧ (after (step State.reset)).isSome = true := by
  refine ⟨witness_inv_reset, ?_, by decide⟩
  simp [State.Fits, State.reset]

/-- It holds in the loop of a 2 by 2 frame if `DIM_BITS` is at least 2. -/
theorem witness_WidthsSufficeInTheLoop (h : 2 ≤ Config.dimBits) : (loop Phase.ldvu).Inv ∧ (loop Phase.ldvu).Fits := by
  have h2 : 4 ≤ 2 ^ Config.dimBits := Nat.pow_le_pow_right (n := 2) (by decide) h
  have h3 : 32 ≤ 2 ^ Config.idxBits :=
    Nat.pow_le_pow_right (n := 2) (i := 5) (by decide) (by unfold Config.idxBits; omega)
  refine ⟨witness_inv_loading, ?_⟩
  simp only [State.Fits, loop, call, State.reset, Option.mem_def, Option.some.injEq, forall_eq', List.not_mem_nil,
    false_implies, implies_true, and_true]
  omega

/-! Calls. -/

/-- A call about to begin. -/
def ready : State := { call 0 with host := [.write (.cmd 1)] }

theorem ready_begins (s : State) (h : s.phase = 0 ∧ s.host = [.write (.cmd 1)] ∧ s.dstHeld = false ∧ s.srcHeld = false ∧
    s.Truthful) : s.CallBegins := by
  obtain ⟨h1, h2, h3, h4, h5⟩ := h
  refine ⟨h1, ?_, ⟨h3, h4⟩, h5⟩
  simp [State.pendingCommand, h2]

theorem witness_successful_call : ready.CallBegins ∧ ready.callResult = 0 :=
  ⟨ready_begins _ (by decide), by decide⟩

/-- V13: the empty frame succeeds too. -/
theorem witness_empty_call :
    State.CallBegins { ready with width := 0, height := 0, srcLen := 0, dstLen := 0 } ∧
      State.callResult { ready with width := 0, height := 0, srcLen := 0, dstLen := 0 } = 0 :=
  ⟨ready_begins _ (by decide), by decide⟩

/-- V17, V18, V19, V20, V21 and V9: one call of each failure kind. -/
theorem witness_failing_call :
    State.CallBegins { ready with hostRsp := 0b000, dstFormat := 4, width := 3 } ∧
      State.callResult { ready with hostRsp := 0b000, dstFormat := 4, width := 3 } = 1 ∧
      State.callResult { ready with hostRsp := 0b001, dstFormat := 4, width := 3 } = 2 ∧
      State.callResult { ready with hostRsp := 0b001, width := 3 } = 5 ∧
      State.callResult { ready with hostRsp := 0b001, srcLen := 5 } = 3 ∧
      State.callResult { ready with hostRsp := 0b011, srcLen := 5 } = 4 ∧
      State.callResult { ready with srcLen := 5 } = 6 :=
  ⟨ready_begins _ (by decide), by decide⟩

/-- Two states of one call: leftovers (of a finished call, `DONE` and a `RESULT` among them), the destination and the
source beyond the frame differ. -/
theorem witness_CallOutcomeDependsOnTheFrameAlone :
    ready.CallBegins ∧
      State.CallBegins { ready with
        row := some 9, status := 0x12, dst := [(0, 1)], srcSize := 7
        src := Memory.ofBytes 0 [0x51, 0x91, 0x10, 0x80, 0xF0, 0x5A, 0x77] } ∧
      SameCall ready { ready with
        row := some 9, status := 0x12, dst := [(0, 1)], srcSize := 7
        src := Memory.ofBytes 0 [0x51, 0x91, 0x10, 0x80, 0xF0, 0x5A, 0x77] } := by
  refine ⟨ready_begins _ (by decide), ready_begins _ (by decide), rfl, rfl, rfl, rfl, rfl, rfl, ?_⟩
  intro i hi
  change i < 6 at hi
  interval_cases i <;> decide

end Sys2Proof.Tests
end

section
/-! PROOFS. A register that holds `none` has no value to read (R8, R24, R150): what the read of one operand, of two and
of three in turn does, and from that the fault of every micro-operation that meets one. -/

namespace Sys2Proof.Machine

/-- A meaning whose next operand holds `none` stops there, whatever it would do with the value (R150 row 1). -/
@[simp] theorem settle_readReg_none_bind {α : Type} (r : Reg) (f : α → Except Fault State) :
    settle (readReg r none >>= f) = .fault (.noValue r) := rfl

/-- A meaning whose next operand holds a value goes on with it. -/
@[simp] theorem settle_readReg_some_bind {α : Type} (r : Reg) (v : α) (f : α → Except Fault State) :
    settle (readReg r (some v) >>= f) = settle (f v) := rfl

theorem settle_readReg_two_of_none {α β : Type} {q r : Reg} {a : Option α} {b : Option β}
    {f : α → β → Except Fault State} (h : a = none ∨ b = none) :
    ∃ x, settle (readReg q a >>= fun u => readReg r b >>= f u) = .fault (.noValue x) := by
  cases a with
  | none => exact ⟨q, rfl⟩
  | some u =>
    obtain rfl : b = none := h.resolve_left (Option.some_ne_none u)
    exact ⟨r, rfl⟩

theorem settle_readReg_three_of_none {α β γ : Type} {p q r : Reg} {a : Option α} {b : Option β} {c : Option γ}
    {f : α → β → γ → Except Fault State} (h : a = none ∨ b = none ∨ c = none) :
    ∃ x, settle (readReg p a >>= fun u => readReg q b >>= fun v => readReg r c >>= f u v) =
      .fault (.noValue x) := by
  cases a with
  | none => exact ⟨p, rfl⟩
  | some u =>
    have hbc : b = none ∨ c = none := h.resolve_left (Option.some_ne_none u)
    rw [settle_readReg_some_bind]
    exact settle_readReg_two_of_none hbc

/-! The sampler (R102 to R105). -/

theorem execRowstart_of_row_none {s : State} (h : s.row = none) : execRowstart s = .fault (.noValue .row) := by
  rw [execRowstart, h, settle_readReg_none_bind]

theorem execLdvu_of_uvCursor_none {s : State} (h : s.uvCursor = none) :
    execLdvu s = .fault (.noValue .uvCursor) := by
  rw [execLdvu, h, settle_readReg_none_bind]

theorem execLdy_of_yIndex_none {s : State} (h : s.yIndex = none) : execLdy s = .fault (.noValue .yIndex) := by
  rw [execLdy, h, settle_readReg_none_bind]

theorem execNext_of_yIndex_none {s : State} (h : s.yIndex = none) : execNext s = .fault (.noValue .yIndex) := by
  rw [execNext, h, settle_readReg_none_bind]

theorem execNext_of_col_none {s : State} {n : Nat} (hn : s.yIndex = some n) (hc : s.col = none) :
    execNext s = .fault (.noValue .col) := by
  rw [execNext, hn, hc, settle_readReg_some_bind, settle_readReg_none_bind]

/-- `NEXT` reads `row` at the end of a row alone (R105). -/
theorem execNext_of_row_none {s : State} {n c : Nat} (hn : s.yIndex = some n) (hc : s.col = some c)
    (hw : c + 1 = s.width) (hr : s.row = none) : execNext s = .fault (.noValue .row) := by
  rw [execNext, hn, hc, settle_readReg_some_bind, settle_readReg_some_bind, hr]
  simp only [if_pos hw, settle_readReg_none_bind]

/-! The matrix, the clamp and the packer (R116, R117, R126, R128). -/

theorem execMatrix_of_uvValid {s : State} (h : s.uvValid ≠ some true) :
    execMatrix s = .fault (.noValue .uvValid) := if_neg h

theorem execMatrix_of_operand_none {s : State} (hv : s.uvValid = some true)
    (h : s.yb = none ∨ s.vb = none ∨ s.ub = none) : ∃ r, execMatrix s = .fault (.noValue r) := by
  rw [execMatrix, if_pos hv]
  exact settle_readReg_three_of_none h

theorem execClamp_of_operand_none {s : State} (h : s.rm = none ∨ s.gm = none ∨ s.bm = none) :
    ∃ r, execClamp s = .fault (.noValue r) := settle_readReg_three_of_none h

theorem execPack_of_operand_none {s : State} (h : s.rk = none ∨ s.gk = none ∨ s.bk = none) :
    ∃ r, execPack s = .fault (.noValue r) := settle_readReg_three_of_none h

theorem execStpix_of_operand_none {s : State} (h : s.pix = none ∨ s.yIndex = none) :
    ∃ r, execStpix s = .fault (.noValue r) := settle_readReg_two_of_none h

/-- Settles O32: `exec` is each operation's meaning, and each meaning stops at its first operand that holds `none`. -/
theorem readingNoneFaults : Obligations.ReadingNoneFaults := by
  intro s
  refine ⟨execRowstart_of_row_none, execLdvu_of_uvCursor_none,
    fun h => ⟨execLdy_of_yIndex_none h, execNext_of_yIndex_none h⟩, execMatrix_of_uvValid,
    execMatrix_of_operand_none, execClamp_of_operand_none, execPack_of_operand_none, execStpix_of_operand_none,
    fun hn hc => ?_, fun _ _ => execNext_of_row_none⟩
  obtain ⟨n, hn⟩ := Option.ne_none_iff_exists'.1 hn
  exact execNext_of_col_none hn hc

end Sys2Proof.Machine
end

section
/-! PROOFS. The open widths `DIM_BITS` and `IDX_BITS` (R5, R21 to R23): what each operation
that writes one needs for its new value to fit, and where the invariant supplies it. -/

namespace Sys2Proof.Machine

/-! `Fits` speaks of the descriptor's dimensions and lengths, the counters, the indices and the pending moves alone.
Of an update of other fields, `Fits` is by definition that of the state before; the proofs below give it as such. -/

/-- A register that holds a value is bounded as the value is. -/
theorem forall_mem_some_lt {a b : Nat} (h : a < b) : ∀ n ∈ some a, n < b := by
  rintro _ ⟨⟩
  exact h

/-- A check of validation or acquisition ends in one of two states; both fit. -/
theorem State.fits_ite {c : Prop} [Decidable c] {s t : State} (hs : s.Fits) (ht : t.Fits) :
    (if c then s else t).Fits := by
  split
  · exact hs
  · exact ht

/-! The host's moves (R11 to R18, R155). -/

/-- Taking the next pending move leaves a state that fits, and the move fits its register (R66). -/
theorem State.Fits.takeMove {s : State} {m : HostMove} {ms : List HostMove} (hf : s.Fits) (hh : s.host = m :: ms) :
    State.Fits { s with host := ms } ∧ m.Fits := by
  obtain ⟨hw, hht, hsl, hdl, hrow, hcol, hy, hu, hm⟩ := hf
  rw [hh, List.forall_mem_cons] at hm
  exact ⟨⟨hw, hht, hsl, hdl, hrow, hcol, hy, hu, hm.2⟩, hm.1⟩

theorem State.Fits.crWrite {s t : State} {w : CRWrite} (hf : s.Fits) (hw : w.Fits) (h : s.crWrite w = .next t) :
    t.Fits := by
  obtain ⟨hwd, hht, hsl, hdl, hregs⟩ := hf
  cases w with
  | width v => cases h; exact ⟨hw, hht, hsl, hdl, hregs⟩
  | height v => cases h; exact ⟨hwd, hw, hsl, hdl, hregs⟩
  | srcLen v => cases h; exact ⟨hwd, hht, hw, hdl, hregs⟩
  | dstLen v => cases h; exact ⟨hwd, hht, hsl, hw, hregs⟩
  | dstFormat v | hostRsp v | status v => cases h; exact ⟨hwd, hht, hsl, hdl, hregs⟩
  | cmd v =>
    by_cases hv : v = Config.cmdStart
    · obtain ⟨-, rfl⟩ := State.beginCall_eq_next.1 (by simpa only [State.crWrite, if_pos hv] using h)
      exact ⟨hwd, hht, hsl, hdl, hregs⟩
    · simp only [State.crWrite, if_neg hv] at h
      cases h
      exact ⟨hwd, hht, hsl, hdl, hregs⟩

/-- The values of R32 fit every width: 0 or `none`; the pending moves stay. -/
theorem State.Fits.resetBlock {s : State} (hf : s.Fits) : s.resetBlock.Fits := by
  obtain ⟨-, -, -, -, -, -, -, -, hm⟩ := hf
  simpa [State.Fits, State.resetBlock, State.reset] using hm

theorem State.Fits.applyMove {s t : State} {m : HostMove} (hf : s.Fits) (hm : m.Fits)
    (h : s.applyMove m = .next t) : t.Fits := by
  cases m with
  | write w => exact hf.crWrite hm h
  | read r =>
    obtain ⟨v, -, rfl⟩ := State.applyMove_read_eq_next.1 h
    exact hf
  | attachSrc bs | attachDst ws => cases h; exact hf
  | reset => cases h; exact hf.resetBlock

theorem State.Fits.hostTurn {s t : State} (hf : s.Fits) (h : s.hostTurn = .next t) : t.Fits := by
  rcases s.hostTurn_cases with ⟨hnone, -⟩ | ⟨m, ms, -, hh, hmove⟩
  · rw [hnone] at h
    cases h
    exact hf
  · obtain ⟨hrest, hm⟩ := hf.takeMove hh
    exact hrest.applyMove hm (hmove ▸ h)

/-! The four micro-operations that write a register of an open width (R101 to R103, R105). -/

theorem State.Fits.framestart {s t : State} (hf : s.Fits) (h : execFramestart s = .next t) : t.Fits := by
  obtain ⟨hw, hht, hsl, hdl, -, hcol, -, hu, hm⟩ := hf
  cases h
  exact ⟨hw, hht, hsl, hdl, forall_mem_some_lt (Nat.two_pow_pos _), hcol,
    forall_mem_some_lt (Nat.two_pow_pos _), hu, hm⟩

/-- The chroma base fits where it lies inside the declared source. -/
theorem State.Fits.rowstart {s t : State} (hf : s.Fits) (hbase : ∀ j ∈ s.row, s.chromaBase j < s.srcLen)
    (h : execRowstart s = .next t) : t.Fits := by
  obtain ⟨hw, hht, hsl, hdl, hrow, -, hy, -, hm⟩ := hf
  obtain ⟨j, hj, rfl⟩ := execRowstart_eq_next.1 h
  exact ⟨hw, hht, hsl, hdl, hrow, forall_mem_some_lt (Nat.two_pow_pos _), hy,
    forall_mem_some_lt ((hbase j hj).trans hsl), hm⟩

/-- `LDVU` goes on only where both bytes lie below `SRC_LEN`, so the advanced cursor is at most `SRC_LEN`. -/
theorem State.Fits.ldvu {s t : State} (hf : s.Fits) (h : execLdvu s = .next t) : t.Fits := by
  obtain ⟨hw, hht, hsl, hdl, hrow, hcol, hy, -, hm⟩ := hf
  obtain ⟨c, -, -, hlen, -, rfl⟩ := execLdvu_eq_next.1 h
  exact ⟨hw, hht, hsl, hdl, hrow, hcol, hy, forall_mem_some_lt (Nat.lt_of_le_of_lt hlen hsl), hm⟩

/-- The advanced counters fit where each one is below its own bound: `WIDTH`, `HEIGHT`, `DST_LEN`. -/
theorem State.Fits.next {s t : State} (hf : s.Fits) (hy : ∀ n ∈ s.yIndex, n < s.dstLen)
    (hcol : ∀ c ∈ s.col, c < s.width) (hrow : ∀ r ∈ s.row, r < s.height) (h : execNext s = .next t) :
    t.Fits := by
  obtain ⟨hw, hht, hsl, hdl, hrow', -, -, hu, hm⟩ := hf
  obtain ⟨n, c, hn, hc, hadv⟩ := execNext_eq_next.1 h
  have hn' := forall_mem_some_lt (Nat.lt_of_le_of_lt (hy n hn) hdl)
  have hc' := forall_mem_some_lt (Nat.lt_of_le_of_lt (hcol c hc) hw)
  rcases hadv with ⟨-, rfl⟩ | ⟨-, r, hr, rfl⟩
  · exact ⟨hw, hht, hsl, hdl, hrow', hc', hn', hu, hm⟩
  · have hr' := forall_mem_some_lt (Nat.lt_of_le_of_lt (hrow r hr) hht)
    exact ⟨hw, hht, hsl, hdl, hr', hc', hn', hu, hm⟩

/-! What the invariant says at the two phases whose new values need it. -/

/-- At `ROWSTART` the chroma base of the row lies inside the declared source (R23, R43, R102). -/
theorem State.Inv.chromaBase_lt {s : State} (hi : s.Inv) (hp : s.phase = Phase.rowstart) :
    ∀ j ∈ s.row, s.chromaBase j < s.srcLen := by
  obtain ⟨-, -, -, -, -, hphase⟩ := hi
  rw [State.PhaseInv, hp] at hphase
  obtain ⟨⟨-, -, ⟨hw, hh⟩, ⟨-, hsrc⟩, hw0, -⟩, j, hj, hjh, -⟩ := hphase
  intro j' hj'
  obtain rfl : j = j' := Option.some.inj (hj.symm.trans hj')
  have hu : uIndex s.width s.height j 0 < frameLength s.width s.height := uIndex_lt hw hh hjh hw0
  calc s.chromaBase j < uIndex s.width s.height j 0 := Nat.lt_succ_self _
    _ < frameLength s.width s.height := hu
    _ ≤ s.srcLen := hsrc

/-- At `NEXT` the counters stand at a pixel of the frame, its slot below `DST_LEN` (R22, R44). -/
theorem State.Inv.counters_lt {s : State} (hi : s.Inv) (hp : s.phase = Phase.next) :
    (∀ n ∈ s.yIndex, n < s.dstLen) ∧ (∀ c ∈ s.col, c < s.width) ∧ ∀ r ∈ s.row, r < s.height := by
  obtain ⟨-, -, -, -, -, hphase⟩ := hi
  rw [State.PhaseInv, hp] at hphase
  obtain ⟨j, i, ⟨⟨-, -, -, ⟨hdst, -⟩, -, -⟩, hrow, hcol, hjh, hiw, hy⟩, -, -⟩ := hphase
  rw [hrow, hcol, hy, hdst]
  exact ⟨forall_mem_some_lt (lumaIndex_lt hjh hiw), forall_mem_some_lt hiw, forall_mem_some_lt hjh⟩

/-! The step. -/

/-- Outside `IDLE`: four operations write a register of an open width, the others none. -/
theorem State.Fits.exec_of_busy {s t : State} {i : Instr} (hi : s.Inv) (hf : s.Fits) (hp : s.phase ≠ Phase.idle)
    (hc : encode i = .phase s.phase) (h : exec i s = .next t) : t.Fits := by
  cases i with
  | idle => exact absurd (Code.phase.inj hc).symm hp
  | convert => cases hc
  | framestart => exact hf.framestart h
  | rowstart => exact hf.rowstart (hi.chromaBase_lt (Code.phase.inj hc).symm) h
  | ldvu => exact hf.ldvu h
  | next =>
    obtain ⟨hy, hcol, hrow⟩ := hi.counters_lt (Code.phase.inj hc).symm
    exact hf.next hy hcol hrow h
  | qinfo | chkfmt | chkdim | lockdst | pinsrc | chklen => cases h; exact State.fits_ite hf hf
  | unpin | unlock => cases h; exact hf
  | ldy =>
    obtain ⟨_, -, -, -, -, rfl⟩ := execLdy_eq_next.1 h
    exact hf
  | matrix =>
    obtain ⟨-, _, _, _, -, -, -, rfl⟩ := execMatrix_eq_next.1 h
    exact hf
  | clamp =>
    obtain ⟨_, _, _, -, -, -, rfl⟩ := execClamp_eq_next.1 h
    exact hf
  | pack =>
    obtain ⟨_, _, _, -, -, -, rfl⟩ := execPack_eq_next.1 h
    exact hf
  | stpix =>
    obtain ⟨_, _, -, -, -, -, -, rfl⟩ := execStpix_eq_next.1 h
    exact hf
  | ret =>
    obtain ⟨-, rfl⟩ := execRet_eq_next.1 h
    exact hf

/-- Settles O47: a step in `IDLE` is the host's turn, any other is the operation `PHASE` names; each leaves a state that
fits. -/
theorem widthsSufficeAtEveryStep : Obligations.WidthsSufficeAtEveryStep := by
  intro s t hi hf h
  by_cases hp : s.phase = Phase.idle
  · exact hf.hostTurn (step_of_idle hp ▸ h)
  · obtain ⟨i, hc, hexec⟩ := step_eq_next_of_busy hp h
    exact hf.exec_of_busy hi hp hc hexec

end Sys2Proof.Machine
end

section
/-! PROOFS. What no step outside `IDLE` changes (R19, R81, R161), what each does to `STATUS` (R18, R139, R143), and all
that a move of the host can do to the block (R81, R155). -/

namespace Sys2Proof.Machine

/-! A step outside `IDLE`. -/

/-- What is the host's while a call runs: descriptor, replies, source, buffer sizes, pending moves (R19, R81, R161). -/
def State.SameHostSide (s t : State) : Prop :=
  t.width = s.width ∧ t.height = s.height ∧ t.dstFormat = s.dstFormat ∧ t.srcLen = s.srcLen ∧
    t.dstLen = s.dstLen ∧ t.hostRsp = s.hostRsp ∧ t.src = s.src ∧ t.srcSize = s.srcSize ∧
    t.dstSize = s.dstSize ∧ t.host = s.host

theorem State.SameHostSide.refl (s : State) : s.SameHostSide s := ⟨rfl, rfl, rfl, rfl, rfl, rfl, rfl, rfl, rfl, rfl⟩

/-- What each operation does to `STATUS`: a check may fail, `RET` sets `DONE`, the others leave it (R18, R139, R143). -/
def StatusAfter (i : Instr) (old new : BitVec 8) : Prop :=
  match i with
  | .qinfo | .chkfmt | .chkdim | .lockdst | .pinsrc | .chklen =>
    new = old ∨ ∃ k : FailureKind, new = statusWithResult old k.code
  | .ret => new = statusWithDone old true
  | _ => new = old

/-- What an operation other than `IDLE` and `CONVERT` leaves as it was. -/
structure StepFrame (i : Instr) (s t : State) : Prop where
  hostSide : s.SameHostSide t
  status : StatusAfter i s.status t.status
  /-- `STPIX` alone writes the destination, one slot (R40, R47) -/
  dst : t.dst = s.dst ∨ i = .stpix ∧ ∃ n w, t.dst = s.dst.writeSlot n w
  /-- `FRAMESTART` and `NEXT` alone write `yIndex` (R22) -/
  yIndex : t.yIndex = s.yIndex ∨ i = .framestart ∨ i = .next

theorem exec_of_busy_frame {s t : State} {i : Instr} {p : PhaseCode} (hp : p ≠ Phase.idle)
    (hc : encode i = .phase p) (h : exec i s = .next t) : StepFrame i s t := by
  have same := State.SameHostSide.refl s
  cases i with
  | idle => exact absurd (Code.phase.inj hc).symm hp
  | convert => cases hc
  | qinfo | chkfmt | chkdim | lockdst | pinsrc | chklen =>
    cases h
    split
    · exact ⟨same, .inl rfl, .inl rfl, .inl rfl⟩
    · exact ⟨same, .inr ⟨_, rfl⟩, .inl rfl, .inl rfl⟩
  | framestart => cases h; exact ⟨same, rfl, .inl rfl, .inr (.inl rfl)⟩
  | unpin | unlock => cases h; exact ⟨same, rfl, .inl rfl, .inl rfl⟩
  | rowstart =>
    obtain ⟨_, -, rfl⟩ := execRowstart_eq_next.1 h
    exact ⟨same, rfl, .inl rfl, .inl rfl⟩
  | ldvu =>
    obtain ⟨_, -, -, -, -, rfl⟩ := execLdvu_eq_next.1 h
    exact ⟨same, rfl, .inl rfl, .inl rfl⟩
  | ldy =>
    obtain ⟨_, -, -, -, -, rfl⟩ := execLdy_eq_next.1 h
    exact ⟨same, rfl, .inl rfl, .inl rfl⟩
  | matrix =>
    obtain ⟨-, _, _, _, -, -, -, rfl⟩ := execMatrix_eq_next.1 h
    exact ⟨same, rfl, .inl rfl, .inl rfl⟩
  | clamp =>
    obtain ⟨_, _, _, -, -, -, rfl⟩ := execClamp_eq_next.1 h
    exact ⟨same, rfl, .inl rfl, .inl rfl⟩
  | pack =>
    obtain ⟨_, _, _, -, -, -, rfl⟩ := execPack_eq_next.1 h
    exact ⟨same, rfl, .inl rfl, .inl rfl⟩
  | stpix =>
    obtain ⟨_, _, -, -, -, -, -, rfl⟩ := execStpix_eq_next.1 h
    exact ⟨same, rfl, .inr ⟨rfl, _, _, rfl⟩, .inl rfl⟩
  | next =>
    obtain ⟨_, _, -, -, ⟨-, rfl⟩ | ⟨-, _, -, rfl⟩⟩ := execNext_eq_next.1 h
    · exact ⟨same, rfl, .inl rfl, .inr (.inr rfl)⟩
    · exact ⟨same, rfl, .inl rfl, .inr (.inr rfl)⟩
  | ret =>
    obtain ⟨-, rfl⟩ := execRet_eq_next.1 h
    exact ⟨same, rfl, .inl rfl, .inl rfl⟩

/-- Settles O38: a step outside `IDLE` is the operation `PHASE` names, and none of them writes what is the host's. -/
theorem descriptorIsConstantDuringACall : Obligations.DescriptorIsConstantDuringACall := by
  intro s t hp h
  obtain ⟨i, hc, hexec⟩ := step_eq_next_of_busy hp h
  exact (exec_of_busy_frame hp hc hexec).hostSide

/-- The six failure kinds are reported as 1 to 6 (R68, R136). -/
theorem FailureKind.code_range (k : FailureKind) : 1 ≤ k.code.toNat ∧ k.code.toNat ≤ 6 := by
  cases k <;> decide

/-- What a check that may have failed leaves of `STATUS`: a `RESULT` as before or one of 1 to 6, and every other bit. -/
theorem status_after_check {old new : BitVec 8}
    (h : new = old ∨ ∃ k : FailureKind, new = statusWithResult old k.code) :
    (statusResult new = statusResult old ∨ (1 ≤ (statusResult new).toNat ∧ (statusResult new).toNat ≤ 6)) ∧
      statusDone new = statusDone old ∧ new &&& 0xE0 = old &&& 0xE0 := by
  obtain rfl | ⟨k, rfl⟩ := h
  · exact ⟨.inl rfl, rfl, rfl⟩
  · rw [statusResult_withResult]
    exact ⟨.inr k.code_range, statusDone_withResult _ _, statusReserved_withResult _ _⟩

/-- Who writes `RESULT`, `DONE` and the reserved bits outside `IDLE` (R18, R139, R143). -/
theorem State.status_of_busy {s t : State} (hp : s.phase ≠ Phase.idle) (h : step s = .next t) :
    (6 < s.phase.toNat → t.result = s.result) ∧ (t.result = s.result ∨ (1 ≤ t.result.toNat ∧ t.result.toNat ≤ 6)) ∧
      (s.phase ≠ Phase.ret → t.done = s.done) ∧ (s.phase = Phase.ret → t.done = true) ∧
      t.status &&& 0xE0 = s.status &&& 0xE0 := by
  obtain ⟨i, hc, hexec⟩ := step_eq_next_of_busy hp h
  have hst := (exec_of_busy_frame hp hc hexec).status
  unfold State.result State.done
  cases i with
  | convert => cases hc
  | qinfo | chkfmt | chkdim | lockdst | pinsrc | chklen =>
    obtain ⟨hres, hdone, hrsv⟩ := status_after_check hst
    rw [← Code.phase.inj hc]
    exact ⟨fun hlt => absurd hlt (by decide), hres, fun _ => hdone, fun hr => absurd hr (by decide), hrsv⟩
  | ret =>
    obtain hst : t.status = statusWithDone s.status true := hst
    rw [hst, statusResult_withDone, statusDone_withDone]
    exact ⟨fun _ => rfl, .inl rfl, fun hne => absurd (Code.phase.inj hc).symm hne, fun _ => rfl,
      statusReserved_withDone _ _⟩
  | idle | framestart | rowstart | ldvu | ldy | matrix | clamp | pack | stpix | next | unpin | unlock =>
    obtain hst : t.status = s.status := hst
    rw [hst, ← Code.phase.inj hc]
    exact ⟨fun _ => rfl, .inl rfl, fun _ => rfl, fun hr => absurd hr (by decide), rfl⟩

/-! A move of the host, and a step in `IDLE`. -/

/-- What a host move other than `START` and reset leaves of the block: `STATUS`, `PHASE` and the `HELD` flags as they
were, and both spaces in the canonical form. -/
def State.OnlyPortMoved (s t : State) : Prop :=
  t.status = s.status ∧ t.phase = s.phase ∧ t.dstHeld = s.dstHeld ∧ t.srcHeld = s.srcHeld ∧
    (Memory.wf s.src → Memory.wf t.src) ∧ (Memory.wf s.dst → Memory.wf t.dst)

theorem State.OnlyPortMoved.refl (s : State) : s.OnlyPortMoved s := ⟨rfl, rfl, rfl, rfl, id, id⟩

/-- All that a host move can do when it goes on: `START`, reset, or a change at the port alone. -/
theorem State.applyMove_cases {s t : State} {m : HostMove} (h : s.applyMove m = .next t) :
    (m = .write (.cmd Config.cmdStart) ∧ s.Truthful ∧ t = s.start) ∨ (m = .reset ∧ t = s.resetBlock) ∨
      s.OnlyPortMoved t := by
  have port := State.OnlyPortMoved.refl s
  cases m with
  | write w =>
    cases w with
    | cmd v =>
      by_cases hv : v = Config.cmdStart
      · subst hv
        exact .inl ⟨rfl, State.beginCall_eq_next.1 h⟩
      · simp only [State.applyMove, State.crWrite, if_neg hv] at h
        cases h
        exact .inr (.inr port)
    | width v | height v | dstFormat v | srcLen v | dstLen v | hostRsp v | status v => cases h; exact .inr (.inr port)
  | read r =>
    obtain ⟨v, -, rfl⟩ := State.applyMove_read_eq_next.1 h
    exact .inr (.inr port)
  | attachSrc bs => cases h; exact .inr (.inr ⟨rfl, rfl, rfl, rfl, fun _ => Memory.wf_ofBytes _ _, id⟩)
  | attachDst ws => cases h; exact .inr (.inr ⟨rfl, rfl, rfl, rfl, id, fun _ => Memory.wf_ofBytes _ _⟩)
  | reset => cases h; exact .inr (.inl ⟨rfl, rfl⟩)

/-- All that a step in `IDLE` can do when it goes on: take `START` or reset from the head of the pending moves, or change
the port alone. -/
theorem State.step_idle_cases {s t : State} (hp : s.phase = Phase.idle) (h : step s = .next t) :
    (∃ ms, s.host = .write (.cmd Config.cmdStart) :: ms ∧ s.Truthful ∧ t = { s with host := ms }.start) ∨
      (∃ ms, s.host = .reset :: ms ∧ t = { s with host := ms }.resetBlock) ∨ s.OnlyPortMoved t := by
  rw [step_of_idle hp] at h
  rcases s.hostTurn_cases with ⟨hwait, -⟩ | ⟨m, ms, -, hh, hmove⟩
  · obtain rfl := Host.Outcome.next.inj (hwait.symm.trans h)
    exact .inr (.inr (State.OnlyPortMoved.refl _))
  · rcases State.applyMove_cases (hmove.symm.trans h) with ⟨rfl, htr, rfl⟩ | ⟨rfl, rfl⟩ | hport
    · exact .inl ⟨ms, hh, htr, rfl⟩
    · exact .inr (.inl ⟨ms, hh, rfl⟩)
    · exact .inr (.inr hport)

/-- Settles O39: outside `IDLE` by what each operation does to `STATUS`, in `IDLE` by what each host move does. -/
theorem onlyStartChecksReturnAndResetWriteStatus : Obligations.OnlyStartChecksReturnAndResetWriteStatus := by
  intro s t h
  refine ⟨fun hp => State.status_of_busy hp h, fun hp => ?_⟩
  rcases State.step_idle_cases hp h with ⟨ms, hh, -, rfl⟩ | ⟨ms, hh, rfl⟩ | ⟨hst, -⟩
  · exact .inr (.inl ⟨(s.pendingCommand_eq_some _).2 ⟨ms, hh⟩, rfl, State.result_start _, State.done_start _, by simp⟩)
  · exact .inr (.inr ⟨⟨ms, hh⟩, rfl⟩)
  · exact .inl hst

end Sys2Proof.Machine
end

section
/-! PROOFS. The invariant, one micro-operation at a time: from what the invariant says at its phase each one goes on, to a
state where the invariant holds at the next phase (R22 to R24, R30, R92, R142). -/

namespace Sys2Proof.Machine

/-- The meaning goes on, to a state that meets what its new phase demands. -/
def ReachesPhaseInv (o : Host.Outcome State Fault Refusal) : Prop := ∃ t, o = .next t ∧ t.PhaseInv

/-! Validation, acquisition, release and return (R83 to R91). -/

theorem State.Unfailed.done_fail {s : State} (h : s.Unfailed) (k : FailureKind) : (s.fail k).done = false :=
  (State.done_fail s k).trans h.2

/-- A failed call owes no frame: its `RESULT` is not 0 (R136). -/
theorem State.frameDone_fail (s : State) (k : FailureKind) : (s.fail k).FrameDone := by
  intro h
  rw [State.result_fail] at h
  exact absurd h (by cases k <;> decide)

theorem State.bit0Clear_dims_iff (s : State) : (bit0Clear s.width && bit0Clear s.height) = true ↔ s.EvenDims := by
  simp [bit0Clear, State.EvenDims]

theorem execQinfo_reaches {s : State} (hn : s.HoldsNothing) (hu : s.Unfailed) : ReachesPhaseInv (execQinfo s) := by
  refine ⟨_, rfl, ?_⟩
  split
  · exact ⟨hn, hu⟩
  · exact ⟨hn, hu.done_fail _, s.frameDone_fail _⟩

theorem execChkfmt_reaches {s : State} (hn : s.HoldsNothing) (hu : s.Unfailed) : ReachesPhaseInv (execChkfmt s) := by
  refine ⟨_, rfl, ?_⟩
  split
  · exact ⟨hn, hu⟩
  · exact ⟨hn, hu.done_fail _, s.frameDone_fail _⟩

theorem execChkdim_reaches {s : State} (hn : s.HoldsNothing) (hu : s.Unfailed) : ReachesPhaseInv (execChkdim s) := by
  refine ⟨_, rfl, ?_⟩
  split
  next heven => exact ⟨hn, hu, s.bit0Clear_dims_iff.1 heven⟩
  next => exact ⟨hn, hu.done_fail _, s.frameDone_fail _⟩

theorem execLockdst_reaches {s : State} (hn : s.HoldsNothing) (hu : s.Unfailed) (he : s.EvenDims) :
    ReachesPhaseInv (execLockdst s) := by
  refine ⟨_, rfl, ?_⟩
  split
  · exact ⟨⟨rfl, hn.2⟩, hu, he⟩
  · exact ⟨hn, hu.done_fail _, s.frameDone_fail _⟩

theorem execPinsrc_reaches {s : State} (hd : s.HoldsDst) (hu : s.Unfailed) (he : s.EvenDims) :
    ReachesPhaseInv (execPinsrc s) := by
  refine ⟨_, rfl, ?_⟩
  split
  · exact ⟨⟨hd.1, rfl⟩, hu, he⟩
  · exact ⟨hd, hu.done_fail _, s.frameDone_fail _⟩

theorem execChklen_reaches {s : State} (hb : s.HoldsBoth) (hu : s.Unfailed) (he : s.EvenDims) :
    ReachesPhaseInv (execChklen s) := by
  refine ⟨_, rfl, ?_⟩
  split
  next hlen => exact ⟨hb, hu, he, hlen⟩
  next => exact ⟨hb, hu.done_fail _, s.frameDone_fail _⟩

theorem execUnpin_reaches {s : State} (hb : s.HoldsBoth) (hd : s.done = false) (hf : s.FrameDone) :
    ReachesPhaseInv (execUnpin s) := ⟨_, rfl, ⟨hb.1, rfl⟩, hd, hf⟩

theorem execUnlock_reaches {s : State} (hb : s.HoldsDst) (hd : s.done = false) (hf : s.FrameDone) :
    ReachesPhaseInv (execUnlock s) := ⟨_, rfl, ⟨rfl, hb.2⟩, hd, hf⟩

theorem execRet_reaches {s : State} (hr : s.result.toNat ≤ 6) (hn : s.HoldsNothing) : ReachesPhaseInv (execRet s) :=
  ⟨_, execRet_eq_next.2 ⟨hr, rfl⟩, hn⟩

/-! Where a pixel's bytes and slot lie (R41 to R45). -/

theorem State.AtPixel.lumaIndex_lt {s : State} {j i : Nat} (h : s.AtPixel j i) :
    lumaIndex s.width j i < s.width * s.height := by
  obtain ⟨-, -, -, hj, hi, -⟩ := h
  exact Machine.lumaIndex_lt hj hi

theorem State.AtPixel.lumaIndex_lt_srcLen {s : State} {j i : Nat} (h : s.AtPixel j i) :
    lumaIndex s.width j i < s.srcLen := by
  have hlt := h.lumaIndex_lt
  obtain ⟨⟨-, -, -, ⟨-, hsrc⟩, -⟩, -⟩ := h
  omega

theorem State.AtPixel.lumaIndex_lt_dstLen {s : State} {j i : Nat} (h : s.AtPixel j i) :
    lumaIndex s.width j i < s.dstLen := by
  have hlt := h.lumaIndex_lt
  obtain ⟨⟨-, -, -, ⟨hdst, -⟩, -⟩, -⟩ := h
  rwa [hdst]

theorem State.AtPixel.uIndex_lt_srcLen {s : State} {j i : Nat} (h : s.AtPixel j i) :
    uIndex s.width s.height j i < s.srcLen := by
  obtain ⟨⟨-, -, ⟨hw, hh⟩, ⟨-, hsrc⟩, -⟩, -, -, hj, hi, -⟩ := h
  exact Nat.lt_of_lt_of_le (uIndex_lt hw hh hj hi) hsrc

/-! The frame and the row begin (R101, R102). -/

theorem lumaIndex_first (w : Nat) : lumaIndex w 0 0 = 0 := by simp [lumaIndex]

/-- Nothing is asked of the destination before the first pixel. -/
theorem State.written_first (s : State) : s.Written (lumaIndex s.width 0 0) := by
  intro j i _ _ h
  rw [lumaIndex_first] at h
  exact absurd h (Nat.not_lt_zero _)

/-- Nothing is asked of the destination of an empty frame (R101). -/
theorem State.written_of_empty {s : State} (h : s.width = 0 ∨ s.height = 0) (n : Nat) : s.Written n := by
  intro j i hj hi
  omega

theorem execFramestart_reaches {s : State} (hb : s.HoldsBoth) (hu : s.Unfailed) (he : s.EvenDims)
    (hl : s.LengthsFit) : ReachesPhaseInv (execFramestart s) := by
  refine ⟨_, rfl, ?_⟩
  split
  next hempty => exact ⟨hb, hu.2, fun _ => State.written_of_empty hempty _⟩
  next hne =>
    obtain ⟨hw, hh⟩ := not_or.1 hne
    exact ⟨⟨hb, hu, he, hl, Nat.pos_of_ne_zero hw, Nat.pos_of_ne_zero hh⟩, 0, rfl, Nat.pos_of_ne_zero hh,
      congrArg some (lumaIndex_first _).symm, State.written_first _⟩

theorem execRowstart_reaches {s : State} {j : Nat} (hf : s.InFrame) (hrow : s.row = some j) (hj : j < s.height)
    (hy : s.yIndex = some (lumaIndex s.width j 0)) (hwr : s.Written (lumaIndex s.width j 0)) :
    ReachesPhaseInv (execRowstart s) := by
  refine ⟨_, execRowstart_eq_next.2 ⟨j, hrow, rfl⟩, ?_⟩
  obtain ⟨-, -, -, -, hw, -⟩ := id hf
  exact ⟨j, 0, ⟨hf, hrow, rfl, hj, hw, hy⟩, rfl, rfl, hwr⟩

/-! One pixel (R103, R104, R116, R117, R126, R128). -/

section Pixel

variable {s : State} {j i : Nat}

theorem execLdvu_reaches (htr : s.Truthful) (hat : s.AtPixel j i)
    (hc : s.uvCursor = some (vIndex s.width s.height j i)) (hwr : s.Written (lumaIndex s.width j i)) :
    ReachesPhaseInv (execLdvu s) := by
  have hlen := hat.uIndex_lt_srcLen
  obtain ⟨⟨-, hheld⟩, -⟩ := hat.1
  exact ⟨_, execLdvu_eq_next.2 ⟨_, hc, hheld, hlen, Nat.lt_of_lt_of_le hlen htr.1, rfl⟩,
    j, i, hat, ⟨rfl, rfl, rfl, rfl⟩, hwr⟩

theorem execLdy_reaches (htr : s.Truthful) (hat : s.AtPixel j i) (hpair : s.PairLoaded j i)
    (hwr : s.Written (lumaIndex s.width j i)) : ReachesPhaseInv (execLdy s) := by
  have hlen := hat.lumaIndex_lt_srcLen
  obtain ⟨⟨⟨-, hheld⟩, -⟩, -, -, -, -, hy⟩ := id hat
  exact ⟨_, execLdy_eq_next.2 ⟨_, hy, hheld, hlen, Nat.lt_of_lt_of_le hlen htr.1, rfl⟩,
    j, i, hat, hpair, rfl, hwr⟩

theorem execMatrix_reaches (hat : s.AtPixel j i) (hpair : s.PairLoaded j i) (hluma : s.LumaLoaded j i)
    (hwr : s.Written (lumaIndex s.width j i)) : ReachesPhaseInv (execMatrix s) := by
  obtain ⟨hvalid, hvb, hub, -⟩ := id hpair
  refine ⟨_, execMatrix_eq_next.2 ⟨hvalid, _, _, _, hluma, hub, hvb, rfl⟩, j, i, hat, hpair, ?_, hwr⟩
  simp only [State.SumsLoaded, Option.map_some, matrixR_exact, matrixG_exact, matrixB_exact]
  simp only [State.operandsAt, lumaOperand_toNat, chromaOperand_toInt, and_self]

theorem execClamp_reaches (hat : s.AtPixel j i) (hpair : s.PairLoaded j i) (hsums : s.SumsLoaded j i)
    (hwr : s.Written (lumaIndex s.width j i)) : ReachesPhaseInv (execClamp s) := by
  obtain ⟨hr, hg, hb⟩ := hsums
  obtain ⟨r, hrm, hr⟩ := Option.map_eq_some_iff.1 hr
  obtain ⟨g, hgm, hg⟩ := Option.map_eq_some_iff.1 hg
  obtain ⟨b, hbm, hb⟩ := Option.map_eq_some_iff.1 hb
  refine ⟨_, execClamp_eq_next.2 ⟨r, g, b, hrm, hgm, hbm, rfl⟩, j, i, hat, hpair, ?_, hwr⟩
  simp only [State.ChannelsLoaded, matrixClamp, Option.map_some, clampChannel_exact, hr, hg, hb]
  exact ⟨rfl, rfl, rfl⟩

theorem execPack_reaches (hat : s.AtPixel j i) (hpair : s.PairLoaded j i) (hchan : s.ChannelsLoaded j i)
    (hwr : s.Written (lumaIndex s.width j i)) : ReachesPhaseInv (execPack s) := by
  obtain ⟨hr, hg, hb⟩ := hchan
  obtain ⟨r, hrk, hr⟩ := Option.map_eq_some_iff.1 hr
  obtain ⟨g, hgk, hg⟩ := Option.map_eq_some_iff.1 hg
  obtain ⟨b, hbk, hb⟩ := Option.map_eq_some_iff.1 hb
  exact ⟨_, execPack_eq_next.2 ⟨r, g, b, hrk, hgk, hbk, rfl⟩, j, i, hat, hpair,
    congrArg some (packWord_eq_pixel _ _ _ _ _ _ hr hg hb), hwr⟩

/-- The store of a pixel's word extends the written part of the frame by its slot (R92). -/
theorem State.written_writeSlot (hat : s.AtPixel j i) (hwr : s.Written (lumaIndex s.width j i)) :
    State.Written { s with dst := s.dst.writeSlot (lumaIndex s.width j i) (s.pixelAt j i) }
      (lumaIndex s.width j i + 1) := by
  obtain ⟨-, -, -, -, hi, -⟩ := hat
  intro j' i' hj' hi' hlt
  change (s.dst.writeSlot _ _).slot _ = s.pixelAt j' i'
  rw [Memory.slot_writeSlot]
  split
  next heq =>
    obtain ⟨rfl, rfl⟩ := lumaIndex_inj hi' hi heq
    rfl
  next hne => exact hwr j' i' hj' hi' (Nat.lt_of_le_of_ne (Nat.le_of_lt_succ hlt) hne)

theorem execStpix_reaches (htr : s.Truthful) (hat : s.AtPixel j i) (hpair : s.PairLoaded j i)
    (hpix : s.pix = some (s.pixelAt j i)) (hwr : s.Written (lumaIndex s.width j i)) :
    ReachesPhaseInv (execStpix s) := by
  have hlen := hat.lumaIndex_lt_dstLen
  obtain ⟨⟨⟨hheld, -⟩, -⟩, -, -, -, -, hy⟩ := id hat
  exact ⟨_, execStpix_eq_next.2 ⟨_, _, hpix, hy, hheld, hlen, Nat.lt_of_lt_of_le hlen htr.2, rfl⟩,
    j, i, hat, hpair, State.written_writeSlot hat hwr⟩

/-! The raster advances (R105). -/

/-- The odd column of a block has the chroma pair of the even one (R42, R106). -/
theorem vIndex_succ_of_even {w h : Nat} (hi : i % 2 = 0) : vIndex w h j (i + 1) = vIndex w h j i := by
  unfold vIndex
  omega

/-- The next block's chroma pair follows the present one (R42, R103). -/
theorem vIndex_succ_of_odd {w h : Nat} (hi : i % 2 = 1) : vIndex w h j (i + 1) = vIndex w h j i + 2 := by
  unfold vIndex
  omega

/-- The slot after the last of a row is the first of the next (R45). -/
theorem lumaIndex_row_end {w : Nat} (hi : i + 1 = w) : lumaIndex w j i + 1 = lumaIndex w (j + 1) 0 := by
  subst hi
  unfold lumaIndex
  ring

theorem bit0Clear_iff (n : Nat) : bit0Clear n = true ↔ n % 2 = 0 := decide_eq_true_iff

theorem execNext_reaches (hat : s.AtPixel j i) (hpair : s.PairLoaded j i)
    (hwr : s.Written (lumaIndex s.width j i + 1)) : ReachesPhaseInv (execNext s) := by
  obtain ⟨hf, hrow, hcol, hj, hi, hy⟩ := hat
  obtain ⟨hvalid, hvb, hub, hcur⟩ := hpair
  by_cases hend : i + 1 = s.width
  · refine ⟨_, execNext_eq_next.2 ⟨_, i, hy, hcol, .inr ⟨hend, j, hrow, rfl⟩⟩, ?_⟩
    rw [lumaIndex_row_end hend] at hwr ⊢
    split
    next hlast =>
      obtain ⟨hb, ⟨-, hdone⟩, -⟩ := hf
      refine ⟨hb, hdone, fun _ => ?_⟩
      rwa [lumaIndex, hlast, Nat.add_zero, Nat.mul_comm] at hwr
    next hmore => exact ⟨hf, j + 1, rfl, Nat.lt_of_le_of_ne hj hmore, rfl, hwr⟩
  · refine ⟨_, execNext_eq_next.2 ⟨_, i, hy, hcol, .inl ⟨hend, rfl⟩⟩, ?_⟩
    have hat' := And.intro hj (Nat.lt_of_le_of_ne hi hend)
    split
    next heven =>
      have heven : (i + 1) % 2 = 0 := (bit0Clear_iff _).1 heven
      refine ⟨j, i + 1, ⟨hf, hrow, rfl, hat'.1, hat'.2, rfl⟩, heven, ?_, hwr⟩
      exact hcur.trans (congrArg some (vIndex_succ_of_odd (by omega)).symm)
    next hodd =>
      have hodd : (i + 1) % 2 ≠ 0 := fun h => hodd ((bit0Clear_iff _).2 h)
      refine ⟨j, i + 1, ⟨hf, hrow, rfl, hat'.1, hat'.2, rfl⟩, ?_, hwr⟩
      rw [State.PairLoaded, uIndex, vIndex_succ_of_even (show i % 2 = 0 by omega)]
      exact ⟨hvalid, hvb, hub, hcur⟩

end Pixel

/-! The step. -/

/-- Outside `IDLE`, from the invariant at its own phase every operation goes on and keeps it. -/
theorem exec_of_busy_reaches {s : State} {i : Instr} (hp : s.phase ≠ Phase.idle) (hc : encode i = .phase s.phase)
    (hr : s.result.toNat ≤ 6) (htr : s.Truthful) (hi : s.PhaseInv) : ReachesPhaseInv (exec i s) := by
  unfold State.PhaseInv at hi
  generalize s.phase = p at hp hc hi
  cases i <;> cases hc
  case idle => exact absurd rfl hp
  case qinfo => exact execQinfo_reaches hi.1 hi.2
  case chkfmt => exact execChkfmt_reaches hi.1 hi.2
  case chkdim => exact execChkdim_reaches hi.1 hi.2
  case lockdst =>
    obtain ⟨hheld, hun, heven⟩ := hi
    exact execLockdst_reaches hheld hun heven
  case pinsrc =>
    obtain ⟨hheld, hun, heven⟩ := hi
    exact execPinsrc_reaches hheld hun heven
  case chklen =>
    obtain ⟨hheld, hun, heven⟩ := hi
    exact execChklen_reaches hheld hun heven
  case framestart =>
    obtain ⟨hheld, hun, heven, hfit⟩ := hi
    exact execFramestart_reaches hheld hun heven hfit
  case rowstart =>
    obtain ⟨hframe, j, hrow, hj, hy, hwr⟩ := hi
    exact execRowstart_reaches hframe hrow hj hy hwr
  case ldvu =>
    obtain ⟨j, i, hat, -, hcur, hwr⟩ := hi
    exact execLdvu_reaches htr hat hcur hwr
  case ldy =>
    obtain ⟨j, i, hat, hpair, hwr⟩ := hi
    exact execLdy_reaches htr hat hpair hwr
  case matrix =>
    obtain ⟨j, i, hat, hpair, hluma, hwr⟩ := hi
    exact execMatrix_reaches hat hpair hluma hwr
  case clamp =>
    obtain ⟨j, i, hat, hpair, hsums, hwr⟩ := hi
    exact execClamp_reaches hat hpair hsums hwr
  case pack =>
    obtain ⟨j, i, hat, hpair, hchan, hwr⟩ := hi
    exact execPack_reaches hat hpair hchan hwr
  case stpix =>
    obtain ⟨j, i, hat, hpair, hpix, hwr⟩ := hi
    exact execStpix_reaches htr hat hpair hpix hwr
  case next =>
    obtain ⟨j, i, hat, hpair, hwr⟩ := hi
    exact execNext_reaches hat hpair hwr
  case unpin =>
    obtain ⟨hheld, hdone, hframe⟩ := hi
    exact execUnpin_reaches hheld hdone hframe
  case unlock =>
    obtain ⟨hheld, hdone, hframe⟩ := hi
    exact execUnlock_reaches hheld hdone hframe
  case ret => exact execRet_reaches hr hi.1

/-- Where the invariant holds, the phase names an operation (R72). -/
theorem State.PhaseInv.decodes {s : State} (hi : s.PhaseInv) : ∃ i, decodePhase s.phase = .ok i := by
  have hle : s.phase.toNat ≤ 18 := by
    by_contra hgt
    obtain ⟨k, hk⟩ : ∃ k, s.phase.toNat = k + 19 := ⟨s.phase.toNat - 19, by omega⟩
    rw [State.PhaseInv, hk] at hi
    exact hi
  interval_cases h : s.phase.toNat <;> rw [decodePhase, h] <;> exact ⟨_, rfl⟩

/-- Outside `IDLE`, from the invariant a step goes on and keeps what the phases demand. -/
theorem State.PhaseInv.step_reaches {s : State} (hp : s.phase ≠ Phase.idle) (hr : s.result.toNat ≤ 6)
    (htr : s.Truthful) (hi : s.PhaseInv) : ReachesPhaseInv (step s) := by
  obtain ⟨i, hd⟩ := hi.decodes
  rw [step_of_phase hp hd]
  exact exec_of_busy_reaches hp (decodePhase_eq_ok hd) hr htr hi

theorem State.PhaseInv.step_of_busy {s t : State} (hp : s.phase ≠ Phase.idle) (hr : s.result.toNat ≤ 6)
    (htr : s.Truthful) (hi : s.PhaseInv) (h : step s = .next t) : t.PhaseInv := by
  obtain ⟨u, hu, hinv⟩ := hi.step_reaches hp hr htr
  obtain rfl : u = t := Host.Outcome.next.inj (hu.symm.trans h)
  exact hinv

/-- Outside `IDLE` no step makes `RESULT` a reserved code (R72). -/
theorem State.result_le_of_busy {s t : State} (hp : s.phase ≠ Phase.idle) (h : step s = .next t)
    (hr : s.result.toNat ≤ 6) : t.result.toNat ≤ 6 := by
  obtain ⟨-, heq | ⟨-, hle⟩, -⟩ := State.status_of_busy hp h
  · rwa [heq]
  · exact hle

theorem State.SameHostSide.truthful {s t : State} (h : s.SameHostSide t) (htr : s.Truthful) : t.Truthful := by
  obtain ⟨-, -, -, hsl, hdl, -, -, hss, hds, -⟩ := h
  rwa [State.Truthful, hsl, hdl, hss, hds]

/-- Outside `IDLE` the destination stays canonical: at most one slot of it is written. -/
theorem State.wf_dst_of_busy {s t : State} (hp : s.phase ≠ Phase.idle) (h : step s = .next t)
    (hd : Memory.wf s.dst) : Memory.wf t.dst := by
  obtain ⟨i, hc, hexec⟩ := step_eq_next_of_busy hp h
  obtain heq | ⟨-, n, w, heq⟩ := (exec_of_busy_frame hp hc hexec).dst
  · rwa [heq]
  · rw [heq]
    exact Memory.wf_writeSlot n w hd

theorem State.Inv.step_of_busy {s t : State} (hi : s.Inv) (hp : s.phase ≠ Phase.idle) (h : step s = .next t) :
    t.Inv := by
  obtain ⟨hsrc, hdst, hrsv, hres, htr, hphase⟩ := hi
  have hside : s.SameHostSide t := descriptorIsConstantDuringACall s t hp h
  obtain ⟨-, -, -, -, hrsv'⟩ := State.status_of_busy hp h
  have hsrc' : t.src = s.src := by
    obtain ⟨-, -, -, -, -, -, heq, -⟩ := hside
    exact heq
  exact ⟨hsrc'.symm ▸ hsrc, State.wf_dst_of_busy hp h hdst, hrsv'.trans hrsv, State.result_le_of_busy hp h hres,
    fun _ => hside.truthful (htr hp), hphase.step_of_busy hp hres (htr hp) h⟩

/-- In `IDLE` the invariant asks that neither buffer is held (R30). -/
theorem State.phaseInv_idle_iff {s : State} (hp : s.phase = Phase.idle) : s.PhaseInv ↔ s.HoldsNothing := by
  rw [State.PhaseInv, hp]
  rfl

theorem State.Inv.step_of_idle {s t : State} (hi : s.Inv) (hp : s.phase = Phase.idle) (h : step s = .next t) :
    t.Inv := by
  obtain ⟨hsrc, hdst, hrsv, hres, -, hphase⟩ := hi
  have hheld := (State.phaseInv_idle_iff hp).1 hphase
  rcases State.step_idle_cases hp h with ⟨ms, -, htr, rfl⟩ | ⟨ms, -, rfl⟩ | ⟨hst, hph, hdh, hsh, hwsrc, hwdst⟩
  · exact ⟨hsrc, hdst, by simpa using hrsv, by simp, fun _ => htr, hheld, State.result_start _, State.done_start _⟩
  · exact ⟨hsrc, hdst, (by decide : (0x00#8) &&& 0xE0#8 = 0), (by decide : (statusResult 0x00#8).toNat ≤ 6),
      fun hne => absurd rfl hne, rfl, rfl⟩
  · have hidle : t.phase = Phase.idle := hph.trans hp
    refine ⟨hwsrc hsrc, hwdst hdst, by rwa [hst], by rwa [State.result, hst], fun hne => absurd hidle hne, ?_⟩
    rw [State.phaseInv_idle_iff hidle, State.HoldsNothing, hdh, hsh]
    exact hheld

/-- Settles O45: in `IDLE` by what each host move does, outside it one micro-operation at a time. -/
theorem everyStepKeepsTheInvariant : Obligations.EveryStepKeepsTheInvariant := by
  intro s t hi h
  by_cases hp : s.phase = Phase.idle
  · exact hi.step_of_idle hp h
  · exact hi.step_of_busy hp h

/-! Progress (R142, R150). -/

/-- Every host move but an untruthful `START` goes on while `RESULT` is an outcome (R161, D31). -/
theorem State.applyMove_goes_on {s : State} {m : HostMove} (hr : s.result.toNat ≤ 6)
    (hm : m = .write (.cmd Config.cmdStart) → s.Truthful) : ∃ t, s.applyMove m = .next t := by
  cases m with
  | write w =>
    cases w with
    | cmd v =>
      by_cases hv : v = Config.cmdStart
      · subst hv
        exact ⟨_, State.beginCall_of_truthful (hm rfl)⟩
      · exact ⟨s, if_neg hv⟩
    | width v | height v | dstFormat v | srcLen v | dstLen v | hostRsp v | status v => exact ⟨_, rfl⟩
  | read r =>
    cases r with
    | status => exact ⟨_, State.applyMove_read_eq_next.2 ⟨_, State.crRead_status_of_le hr, rfl⟩⟩
    | width | height | dstFormat | srcLen | dstLen | hostRsp | cmd => exact ⟨_, rfl⟩
  | attachSrc bs | attachDst ws | reset => exact ⟨_, rfl⟩

theorem State.step_idle_goes_on {s : State} (hp : s.phase = Phase.idle) (hr : s.result.toNat ≤ 6)
    (hstart : ¬ s.StartsUntruthfully) : ∃ t, step s = .next t := by
  rw [Machine.step_of_idle hp]
  rcases s.hostTurn_cases with ⟨hwait, -⟩ | ⟨m, ms, -, hh, hmove⟩
  · exact ⟨s, hwait⟩
  · rw [hmove]
    refine State.applyMove_goes_on hr fun hm => ?_
    subst hm
    exact not_not.1 fun hun => hstart ⟨hp, (s.pendingCommand_eq_some _).2 ⟨ms, hh⟩, hun⟩

/-- The one step with no next state (R161, U6). -/
theorem State.StartsUntruthfully.step_eq {s : State} (h : s.StartsUntruthfully) :
    step s = .refused .untruthfulDescriptor := by
  obtain ⟨hp, hcmd, hun⟩ := h
  obtain ⟨ms, hh⟩ := (s.pendingCommand_eq_some _).1 hcmd
  rw [Machine.step_of_idle hp, State.hostTurn_of_move hp hh]
  exact State.beginCall_of_untruthful hun

/-- Settles O46: outside `IDLE` every operation goes on from the invariant at its phase; in `IDLE` every host move does. -/
theorem noFaultFromTheInvariant : Obligations.NoFaultFromTheInvariant := by
  rintro s ⟨-, -, -, hres, htr, hphase⟩
  refine ⟨fun hstart => ?_, State.StartsUntruthfully.step_eq⟩
  by_cases hp : s.phase = Phase.idle
  · exact State.step_idle_goes_on hp hres hstart
  · obtain ⟨t, ht, -⟩ := hphase.step_reaches hp hres (htr hp)
    exact ⟨t, ht⟩

/-! The variant (R22, R165). -/

/-- `NEXT` at a pixel counts it, and leaves the loop exactly at the last one (R105, R165). -/
theorem execNext_counts {s t : State} {j i : Nat} (hat : s.AtPixel j i) (h : execNext s = .next t) :
    t.yIndex = some (lumaIndex s.width j i + 1) ∧
      (t.phase = Phase.unpin ↔ lumaIndex s.width j i + 1 = s.width * s.height) := by
  obtain ⟨⟨-, -, -, -, hw, -⟩, hrow, hcol, hj, hi, hy⟩ := hat
  obtain ⟨n, c, hn, hc, hadv⟩ := execNext_eq_next.1 h
  obtain rfl := Option.some.inj (hy.symm.trans hn)
  obtain rfl := Option.some.inj (hcol.symm.trans hc)
  rcases hadv with ⟨hmore, rfl⟩ | ⟨hend, r, hr, rfl⟩
  · have hlt : lumaIndex s.width j i + 1 < s.width * s.height := lumaIndex_lt hj (Nat.lt_of_le_of_ne hi hmore)
    refine ⟨rfl, iff_of_false ?_ hlt.ne⟩
    split
    · exact (by decide : Phase.ldvu ≠ Phase.unpin)
    · exact (by decide : Phase.ldy ≠ Phase.unpin)
  · obtain rfl := Option.some.inj (hrow.symm.trans hr)
    have hlast : lumaIndex s.width j i + 1 = s.width * s.height ↔ j + 1 = s.height := by
      rw [lumaIndex_row_end hend, lumaIndex, Nat.add_zero, Nat.mul_comm, Nat.mul_right_inj hw.ne']
    rw [hlast]
    refine ⟨rfl, ?_⟩
    split
    next he => exact iff_of_true rfl he
    next he => exact iff_of_false (by decide : Phase.rowstart ≠ Phase.unpin) he

/-- Settles O44: at `NEXT` the invariant has the counters at a pixel of the frame; no other operation of the loop writes
`yIndex`. -/
theorem everyNextCountsOnePixel : Obligations.EveryNextCountsOnePixel := by
  rintro s t ⟨-, -, -, -, -, hphase⟩ h
  refine ⟨fun hp => ?_, fun hloop hne => ?_⟩
  · rw [step_of_phase (i := .next) (by rw [hp]; decide) (by rw [hp]; rfl)] at h
    rw [State.PhaseInv, hp] at hphase
    obtain ⟨j, i, hat, -, -⟩ := hphase
    obtain ⟨hy, hunpin⟩ := execNext_counts hat h
    obtain ⟨-, -, -, -, -, hn⟩ := id hat
    exact ⟨_, hn, hat.lumaIndex_lt, hy, hunpin⟩
  · have hp : s.phase ≠ Phase.idle := fun hp => by rw [hp] at hloop; exact absurd hloop (by decide)
    obtain ⟨i, hc, hexec⟩ := step_eq_next_of_busy hp h
    obtain heq | rfl | rfl := (exec_of_busy_frame hp hc hexec).yIndex
    · exact heq
    · rw [← Code.phase.inj hc] at hloop
      exact absurd hloop (by decide)
    · exact absurd (Code.phase.inj hc).symm hne

end Sys2Proof.Machine
end

section
/-! PROOFS. Reset and the fetch (R20, R32, R71), and the host's port: a step in `IDLE` with a move pending is that move
(R11 to R18, R67, R81, R155). -/

namespace Sys2Proof.Machine

/-! Reset. -/

/-- Settles O1: each value is the one `State.reset` writes out (R32). -/
theorem resetLeavesTheSpecsValues : Obligations.ResetLeavesTheSpecsValues :=
  ⟨rfl, rfl, rfl, rfl, rfl, rfl, rfl, rfl, rfl, rfl, rfl, rfl, rfl, rfl, rfl, rfl, rfl, rfl, rfl⟩

theorem State.reset_inv : State.reset.Inv :=
  ⟨Memory.wf_nil, Memory.wf_nil, by decide, by decide, fun hne => absurd rfl hne, rfl, rfl⟩

/-- The descriptor's widths are open, so 0 is all that is known to fit (log 2); no register and no move is pending. -/
theorem State.reset_fits : State.reset.Fits :=
  have hdim : 0 < 2 ^ Config.dimBits := Nat.two_pow_pos _
  have hidx : 0 < 2 ^ Config.idxBits := Nat.two_pow_pos _
  ⟨hdim, hdim, hidx, hidx, nofun, nofun, nofun, nofun, nofun⟩

/-- Settles O2. -/
theorem resetMeetsTheInvariants : Obligations.ResetMeetsTheInvariants := ⟨State.reset_inv, State.reset_fits⟩

/-! The fetch. -/

theorem State.fetch_of_busy {s : State} (hp : s.phase ≠ Phase.idle) : s.fetch = .phase s.phase := if_neg hp

theorem State.fetch_of_command {s : State} {b : BitVec 8} {ms : List HostMove} (hp : s.phase = Phase.idle)
    (hh : s.host = .write (.cmd b) :: ms) : s.fetch = .cmd b := by
  rw [State.fetch, if_pos hp, (s.pendingCommand_eq_some b).2 ⟨ms, hh⟩]

theorem State.fetch_of_no_command {s : State} (hp : s.phase = Phase.idle)
    (hh : ∀ b ms, s.host ≠ .write (.cmd b) :: ms) : s.fetch = .phase Phase.idle := by
  have hnone : s.pendingCommand = none := by
    rw [Option.eq_none_iff_forall_ne_some]
    intro b hb
    obtain ⟨ms, hms⟩ := (s.pendingCommand_eq_some b).1 hb
    exact hh b ms hms
  rw [State.fetch, if_pos hp, hnone, hp]

/-- A table word that names an operation is a code that decodes to it. -/
theorem decode_of_decodeTableWord {nbits w : Nat} {i : Instr} (h : decodeTableWord nbits w = some i) :
    decode (tableCode nbits w) = .ok i := by
  unfold decodeTableWord at h
  split at h
  next i' hd => rw [hd, Option.some.inj h]
  next => cases h

/-- A step after a table word is placed runs the word's operation. -/
theorem step_withFetchWord {s : State} {nbits w : Nat} {i : Instr} (h : decodeTableWord nbits w = some i) :
    step (s.withFetchWord nbits w) = exec i (s.withFetchWord nbits w) := by
  refine step_of_decode ?_
  rw [State.withFetchWord, State.fetch_placeCode]
  exact decode_of_decodeTableWord h

/-- Settles O5. -/
theorem stepRunsTheDecodedOperation : Obligations.StepRunsTheDecodedOperation :=
  ⟨fun _ => State.fetch_of_busy, fun _ _ _ => State.fetch_of_command, fun _ => State.fetch_of_no_command,
    fun _ _ => step_of_decode, fun _ _ _ _ => step_withFetchWord⟩

/-! The port. -/

section Port

variable {s : State} {ms : List HostMove}

theorem step_of_move {m : HostMove} (hp : s.phase = Phase.idle) (hh : s.host = m :: ms) :
    step s = { s with host := ms }.applyMove m := by
  rw [step_of_idle hp, State.hostTurn_of_move hp hh]

theorem step_of_write {w : CRWrite} (hp : s.phase = Phase.idle) (hh : s.host = .write w :: ms) :
    step s = { s with host := ms }.crWrite w := step_of_move hp hh

end Port

/-- Settles O7: the pending byte is `START`, over buffers as declared or not, or it is reserved. -/
theorem commandPortTakesStartAlone : Obligations.CommandPortTakesStartAlone := by
  intro s b ms hp hh
  rw [step_of_write hp hh]
  refine ⟨?_, ?_, fun hb => if_neg hb⟩
  · rintro rfl htr
    exact ⟨_, ⟨State.result_start s, State.done_start s, by simp⟩, State.beginCall_of_truthful htr⟩
  · rintro rfl hun
    have hun : ¬ s.Truthful := fun ⟨hsrc, hdst⟩ => by omega
    exact State.beginCall_of_untruthful hun

/-- Settles O34: the step is the pending write, of whichever register. -/
theorem hostWritesLandInTheirRegister : Obligations.HostWritesLandInTheirRegister := by
  intro s ms m hp hh
  rw [step_of_write hp hh]
  refine ⟨?_, ?_, ?_, ?_, ?_, ?_, ?_⟩ <;> rintro v rfl <;> rfl

/-- Settles O35: the step is the pending read, of whichever register. -/
theorem hostReadsReturnTheRegister : Obligations.HostReadsReturnTheRegister := by
  intro s ms r hp hh hres
  rw [step_of_move hp hh]
  simp only [State.applyMove_read_eq_next]
  cases r with
  | status =>
    exact ⟨_, ⟨_, State.crRead_status_of_le (hres rfl), rfl⟩, nofun, nofun, nofun, nofun, nofun, nofun, nofun,
      fun _ => statusRead_toNat s.status⟩
  | width | height | dstFormat | srcLen | dstLen | hostRsp | cmd =>
    refine ⟨_, ⟨_, rfl, rfl⟩, ?_⟩
    simp

/-- Settles O36: the step is the pending reset, which writes the values of R32 and keeps both spaces. -/
theorem resetBetweenCalls : Obligations.ResetBetweenCalls := by
  intro s ms hp hh
  refine ⟨_, step_of_move hp hh, ?_⟩
  simp [State.resetBlock, State.reset]

end Sys2Proof.Machine
end

section
/-! PROOFS. The ranges of the matrix sums over all bytes (R27, R116). -/

namespace Sys2Proof.Machine

/-- A luma operand is at most 255 - 16 (R25, R64). -/
theorem lumaOperand_range (y : Byte) : 0 ≤ ((lumaOperand y).toNat : Int) ∧ ((lumaOperand y).toNat : Int) ≤ 239 := by
  have := y.isLt
  rw [lumaOperand_toNat]
  omega

/-- A chroma operand spans the whole 8-bit two's complement range (R26, R64). -/
theorem chromaOperand_range (b : Byte) : -128 ≤ (chromaOperand b).toInt ∧ (chromaOperand b).toInt ≤ 127 := by
  have := b.isLt
  rw [chromaOperand_toInt]
  omega

/-- Settles O24: each sum is linear in its operands, so its bounds are those at the ends of their ranges. -/
theorem matrixRangesAreTight : Obligations.MatrixRangesAreTight := by
  refine ⟨fun y u v => ?_, ?_⟩
  · obtain ⟨hy0, hy1⟩ := lumaOperand_range y
    obtain ⟨hu0, hu1⟩ := chromaOperand_range u
    obtain ⟨hv0, hv1⟩ := chromaOperand_range v
    simp only [matrixR, matrixG, matrixB, Config.coefY, Config.coefRV, Config.coefGV, Config.coefGU, Config.coefBU]
    omega
  · decide

end Sys2Proof.Machine
end

section
/-! PROOFS. From every state of a call its outcome can be read off: the steps still to come, the events they add, and the
`RESULT` and `DONE` the host finds. Each step takes one off this forecast. -/

namespace Sys2Proof.Machine

/-! The forecast. -/

/-- What the host finds when the block is back in `IDLE`: after how many steps, with which events added to the history, and
with which `RESULT` and `DONE`. -/
structure Forecast where
  steps : Nat
  events : List Event
  result : BitVec 4
  done : Bool

/-- The forecast from `n` steps earlier, whose events are `es`. -/
def Forecast.after (f : Forecast) (n : Nat) (es : List Event) : Forecast :=
  { f with steps := f.steps + n, events := es ++ f.events }

/-- From `RET` on (R91). -/
def Forecast.fromRet (r : BitVec 4) : Forecast := ⟨1, [], r, true⟩

/-- From `UNLOCK` on (R90). -/
def Forecast.fromUnlock (r : BitVec 4) : Forecast := (Forecast.fromRet r).after 1 [.relDst]

/-- From `UNPIN` on (R89). -/
def Forecast.fromUnpin (r : BitVec 4) : Forecast := (Forecast.fromUnlock r).after 1 [.relSrc]

/-- Once a check has failed: the release path of its kind (R139). -/
def Forecast.failed (k : FailureKind) : Forecast :=
  match k with
  | .sourceUnavailable => .fromUnlock k.code
  | .bufferSizeMismatch => .fromUnpin k.code
  | .surfaceInfoUnavailable | .unsupportedPixelFormat | .surfaceLockFailed | .invalidDimensions => .fromRet k.code

/-- The events of row `j` from column `i` on. -/
def State.colEvents (s : State) (j i : Nat) : List Event := (List.range' i (s.width - i)).flatMap (s.pixelEvents j)

/-- The events of the frame from row `j` on. -/
def State.rowEvents (s : State) (j : Nat) : List Event :=
  (List.range' j (s.height - j)).flatMap fun j => s.colEvents j 0

/-- From `ROWSTART` of row `j` on, or from `UNPIN` after the last row: a row takes its `ROWSTART`, six steps for each pixel
and a `LDVU` for each even column (R163). -/
def State.forecastRows (s : State) (j : Nat) : Forecast :=
  (Forecast.fromUnpin 0).after ((s.height - j) * (1 + 6 * s.width + s.width / 2)) (s.rowEvents j)

/-- From the first micro-operation of the pixel at row `j`, column `i` on, or from the end of the row. -/
def State.forecastCols (s : State) (j i : Nat) : Forecast :=
  (s.forecastRows (j + 1)).after (6 * (s.width - i) + (s.width - i) / 2) (s.colEvents j i)

/-- The event of a pixel's store (R128). -/
def State.storeEvent (s : State) (j i : Nat) : Event := .wr (lumaIndex s.width j i) (s.pixelAt j i)

/-- From `FRAMESTART` on (R101). -/
def State.forecastFramestart (s : State) : Forecast :=
  Forecast.after (if s.width = 0 ∨ s.height = 0 then .fromUnpin 0 else s.forecastRows 0) 1 []

/-- From `CHKLEN` on (R88). -/
def State.forecastChklen (s : State) : Forecast :=
  Forecast.after (if s.dstLen = s.planeSize ∧ s.planeSize + s.planeSize / 2 ≤ s.srcLen then s.forecastFramestart
    else .failed .bufferSizeMismatch) 1 []

/-- From `PINSRC` on (R87). -/
def State.forecastPinsrc (s : State) : Forecast :=
  if s.srcOk then s.forecastChklen.after 1 [.acqSrc] else (Forecast.failed .sourceUnavailable).after 1 []

/-- From `LOCKDST` on (R86). -/
def State.forecastLockdst (s : State) : Forecast :=
  if s.lockOk then s.forecastPinsrc.after 1 [.acqDst] else (Forecast.failed .surfaceLockFailed).after 1 []

/-- From `CHKDIM` on (R85). -/
def State.forecastChkdim (s : State) : Forecast :=
  Forecast.after (if bit0Clear s.width && bit0Clear s.height then s.forecastLockdst
    else .failed .invalidDimensions) 1 []

/-- From `CHKFMT` on (R84). -/
def State.forecastChkfmt (s : State) : Forecast :=
  Forecast.after (if s.dstFormat = Config.fmtRgba8888 then s.forecastChkdim
    else .failed .unsupportedPixelFormat) 1 []

/-- From `QINFO` on: of the whole call (R83). -/
def State.forecastQinfo (s : State) : Forecast :=
  Forecast.after (if s.infoOk then s.forecastChkfmt else .failed .surfaceInfoUnavailable) 1 []

/-- The forecast at a phase, with the counters at row `j`, column `i`. Inside a pixel it is that of the next pixel, the
micro-operations left of this one before it. -/
def State.forecastAt (s : State) (p : PhaseCode) (j i : Nat) : Forecast :=
  match p.toNat with
  | 0 => ⟨0, [], s.result, s.done⟩
  | 1 => s.forecastQinfo
  | 2 => s.forecastChkfmt
  | 3 => s.forecastChkdim
  | 4 => s.forecastLockdst
  | 5 => s.forecastPinsrc
  | 6 => s.forecastChklen
  | 7 => s.forecastFramestart
  | 8 => s.forecastRows j
  | 9 => s.forecastCols j i
  | 10 => (s.forecastCols j (i + 1)).after 6 [.rd (lumaIndex s.width j i), s.storeEvent j i]
  | 11 => (s.forecastCols j (i + 1)).after 5 [s.storeEvent j i]
  | 12 => (s.forecastCols j (i + 1)).after 4 [s.storeEvent j i]
  | 13 => (s.forecastCols j (i + 1)).after 3 [s.storeEvent j i]
  | 14 => (s.forecastCols j (i + 1)).after 2 [s.storeEvent j i]
  | 15 => (s.forecastCols j (i + 1)).after 1 []
  | 16 => .fromUnpin s.result
  | 17 => .fromUnlock s.result
  | _ => .fromRet s.result

/-- The forecast of a state; outside the pixel loop the counters do not enter it. -/
def State.forecast (s : State) : Forecast := s.forecastAt s.phase (s.row.getD 0) (s.col.getD 0)

/-! The forecast of the rest of the frame, pixel by pixel and row by row. -/

theorem Forecast.after_after (f : Forecast) (m n : Nat) (ds es : List Event) :
    (f.after m ds).after n es = f.after (m + n) (es ++ ds) := by
  simp [Forecast.after, Nat.add_assoc]

section Raster

variable {s : State} {j i : Nat}

theorem State.colEvents_cons (hi : i < s.width) : s.colEvents j i = s.pixelEvents j i ++ s.colEvents j (i + 1) := by
  unfold State.colEvents
  rw [show s.width - i = s.width - (i + 1) + 1 by omega, List.range'_succ, List.flatMap_cons]

theorem State.rowEvents_cons (hj : j < s.height) : s.rowEvents j = s.colEvents j 0 ++ s.rowEvents (j + 1) := by
  unfold State.rowEvents
  rw [show s.height - j = s.height - (j + 1) + 1 by omega, List.range'_succ, List.flatMap_cons]

theorem State.frameEvents_eq_rowEvents (s : State) : s.frameEvents = s.rowEvents 0 := by
  simp only [State.frameEvents, State.rowEvents, State.colEvents, List.range_eq_range', Nat.sub_zero]

theorem State.forecastRows_of_lt (hj : j < s.height) : s.forecastRows j = (s.forecastCols j 0).after 1 [] := by
  have hsteps : (s.height - j) * (1 + 6 * s.width + s.width / 2) =
      (s.height - (j + 1)) * (1 + 6 * s.width + s.width / 2) + (6 * (s.width - 0) + (s.width - 0) / 2 + 1) := by
    rw [show s.height - j = s.height - (j + 1) + 1 by omega, Nat.succ_mul]
    omega
  rw [State.forecastCols, State.forecastRows, State.forecastRows, Forecast.after_after, Forecast.after_after, hsteps,
    State.rowEvents_cons hj, List.nil_append]

theorem State.forecastRows_end : s.forecastRows s.height = .fromUnpin 0 := by
  simp [State.forecastRows, State.rowEvents, Forecast.after]

theorem State.forecastCols_end : s.forecastCols j s.width = s.forecastRows (j + 1) := by
  simp [State.forecastCols, State.colEvents, Forecast.after]

/-- The pixel of an even column takes seven steps, a `LDVU` among them (R108, R163). -/
theorem State.forecastCols_of_even (hw : s.width % 2 = 0) (hi : i < s.width) (he : i % 2 = 0) :
    s.forecastCols j i = (s.forecastCols j (i + 1)).after 7
      [.rd (vIndex s.width s.height j i), .rd (uIndex s.width s.height j i), .rd (lumaIndex s.width j i),
        s.storeEvent j i] := by
  have hsteps : 6 * (s.width - i) + (s.width - i) / 2 =
      6 * (s.width - (i + 1)) + (s.width - (i + 1)) / 2 + 7 := by omega
  rw [State.forecastCols, State.forecastCols, Forecast.after_after, hsteps, State.colEvents_cons hi]
  simp [State.pixelEvents, State.pixelReads, State.storeEvent, he]

/-- The pixel of an odd column takes six steps: it has the chroma pair of the column before (R106, R163). -/
theorem State.forecastCols_of_odd (hw : s.width % 2 = 0) (hi : i < s.width) (ho : i % 2 = 1) :
    s.forecastCols j i = (s.forecastCols j (i + 1)).after 6 [.rd (lumaIndex s.width j i), s.storeEvent j i] := by
  have hsteps : 6 * (s.width - i) + (s.width - i) / 2 =
      6 * (s.width - (i + 1)) + (s.width - (i + 1)) / 2 + 6 := by omega
  rw [State.forecastCols, State.forecastCols, Forecast.after_after, hsteps, State.colEvents_cons hi]
  simp [State.pixelEvents, State.pixelReads, State.storeEvent, ho]

end Raster

/-! Each step takes one off the forecast. -/

/-- The step from `s` to `t` is the first of the forecast `f`: one step, with the events it adds, before that of `t`. -/
def Foresees (f : Forecast) (s t : State) : Prop :=
  ∃ es, t.events = s.events ++ es ∧ f = t.forecast.after 1 es

/-- A step that adds no event. -/
theorem Foresees.silent {f : Forecast} {s t : State} (he : t.events = s.events) (hf : f = t.forecast.after 1 []) :
    Foresees f s t := ⟨[], by rw [he, List.append_nil], hf⟩

theorem State.forecast_of_counters {s : State} {j i : Nat} (hrow : s.row = some j) (hcol : s.col = some i) :
    s.forecast = s.forecastAt s.phase j i := by
  rw [State.forecast, hrow, hcol]
  rfl

/-- A step to a state inside the pixel loop. -/
theorem Foresees.of_counters {f : Forecast} {s t : State} {j i : Nat} {es : List Event} (hrow : t.row = some j)
    (hcol : t.col = some i) (he : t.events = s.events ++ es) (hf : f = (t.forecastAt t.phase j i).after 1 es) :
    Foresees f s t := ⟨es, he, by rwa [State.forecast_of_counters hrow hcol]⟩

/-! Validation, acquisition, release and return (R83 to R91). -/

/-- A failed call goes the release path of its kind, with the code of its kind in `RESULT` (R136, R139). -/
theorem State.forecast_fail (s : State) (k : FailureKind) : (s.fail k).forecast = .failed k := by
  have hres : statusResult (statusWithResult s.status k.code) = k.code := statusResult_withResult _ _
  cases k with
  | sourceUnavailable => exact congrArg Forecast.fromUnlock hres
  | bufferSizeMismatch => exact congrArg Forecast.fromUnpin hres
  | surfaceInfoUnavailable | unsupportedPixelFormat | surfaceLockFailed | invalidDimensions =>
    exact congrArg Forecast.fromRet hres

theorem Foresees.fail (s : State) (k : FailureKind) : Foresees ((Forecast.failed k).after 1 []) s (s.fail k) :=
  .silent rfl (by rw [State.forecast_fail])

section Checks

variable {s t : State}

theorem execQinfo_foresees (h : execQinfo s = .next t) : Foresees s.forecastQinfo s t := by
  cases h
  unfold State.forecastQinfo
  split
  · exact .silent rfl rfl
  · exact .fail s _

theorem execChkfmt_foresees (h : execChkfmt s = .next t) : Foresees s.forecastChkfmt s t := by
  cases h
  unfold State.forecastChkfmt
  split
  · exact .silent rfl rfl
  · exact .fail s _

theorem execChkdim_foresees (h : execChkdim s = .next t) : Foresees s.forecastChkdim s t := by
  cases h
  unfold State.forecastChkdim
  split
  · exact .silent rfl rfl
  · exact .fail s _

theorem execLockdst_foresees (h : execLockdst s = .next t) : Foresees s.forecastLockdst s t := by
  cases h
  unfold State.forecastLockdst
  split
  · exact ⟨_, rfl, rfl⟩
  · exact .fail s _

theorem execPinsrc_foresees (h : execPinsrc s = .next t) : Foresees s.forecastPinsrc s t := by
  cases h
  unfold State.forecastPinsrc
  split
  · exact ⟨_, rfl, rfl⟩
  · exact .fail s _

theorem execChklen_foresees (h : execChklen s = .next t) : Foresees s.forecastChklen s t := by
  cases h
  unfold State.forecastChklen
  split
  · exact .silent rfl rfl
  · exact .fail s _

theorem execUnpin_foresees (h : execUnpin s = .next t) : Foresees (.fromUnpin s.result) s t := by
  cases h
  exact ⟨_, rfl, rfl⟩

theorem execUnlock_foresees (h : execUnlock s = .next t) : Foresees (.fromUnlock s.result) s t := by
  cases h
  exact ⟨_, rfl, rfl⟩

theorem execRet_foresees (h : execRet s = .next t) : Foresees (.fromRet s.result) s t := by
  obtain ⟨-, rfl⟩ := execRet_eq_next.1 h
  refine .silent rfl ?_
  change _ = Forecast.after ⟨0, [], s.returnToHost.result, s.returnToHost.done⟩ 1 []
  rw [State.result_returnToHost, State.done_returnToHost]
  rfl

/-! The frame and the row begin (R101, R102). -/

theorem execFramestart_foresees (hr : s.result = 0) (h : execFramestart s = .next t) :
    Foresees s.forecastFramestart s t := by
  cases h
  unfold State.forecastFramestart
  split
  · exact .silent rfl (congrArg (fun r => (Forecast.fromUnpin r).after 1 []) hr.symm)
  · exact .silent rfl rfl

theorem execRowstart_foresees {j : Nat} (hrow : s.row = some j) (hj : j < s.height) (h : execRowstart s = .next t) :
    Foresees (s.forecastRows j) s t := by
  obtain ⟨_, -, rfl⟩ := execRowstart_eq_next.1 h
  exact .of_counters hrow rfl (List.append_nil _).symm (State.forecastRows_of_lt hj)

end Checks

/-! One pixel (R103 to R105, R116, R117, R126, R128). -/

section Pixel

variable {s t : State} {j i : Nat}

theorem execLdvu_foresees (hat : s.AtPixel j i) (he : i % 2 = 0)
    (hc : s.uvCursor = some (vIndex s.width s.height j i)) (h : execLdvu s = .next t) :
    Foresees (s.forecastAt Phase.ldvu j i) s t := by
  obtain ⟨⟨-, -, ⟨hw, -⟩, -⟩, hrow, hcol, -, hi, -⟩ := hat
  obtain ⟨c, hc', -, -, -, rfl⟩ := execLdvu_eq_next.1 h
  obtain rfl := Option.some.inj (hc.symm.trans hc')
  exact .of_counters hrow hcol (List.append_assoc _ _ _) (State.forecastCols_of_even hw hi he)

theorem execLdy_foresees (hat : s.AtPixel j i) (h : execLdy s = .next t) :
    Foresees (s.forecastAt Phase.ldy j i) s t := by
  obtain ⟨-, hrow, hcol, -, -, hy⟩ := hat
  obtain ⟨n, hn, -, -, -, rfl⟩ := execLdy_eq_next.1 h
  obtain rfl := Option.some.inj (hy.symm.trans hn)
  exact .of_counters hrow hcol rfl rfl

theorem execMatrix_foresees (hat : s.AtPixel j i) (h : execMatrix s = .next t) :
    Foresees (s.forecastAt Phase.matrix j i) s t := by
  obtain ⟨-, hrow, hcol, -⟩ := hat
  obtain ⟨-, _, _, _, -, -, -, rfl⟩ := execMatrix_eq_next.1 h
  exact .of_counters hrow hcol (List.append_nil _).symm rfl

theorem execClamp_foresees (hat : s.AtPixel j i) (h : execClamp s = .next t) :
    Foresees (s.forecastAt Phase.clamp j i) s t := by
  obtain ⟨-, hrow, hcol, -⟩ := hat
  obtain ⟨_, _, _, -, -, -, rfl⟩ := execClamp_eq_next.1 h
  exact .of_counters hrow hcol (List.append_nil _).symm rfl

theorem execPack_foresees (hat : s.AtPixel j i) (h : execPack s = .next t) :
    Foresees (s.forecastAt Phase.pack j i) s t := by
  obtain ⟨-, hrow, hcol, -⟩ := hat
  obtain ⟨_, _, _, -, -, -, rfl⟩ := execPack_eq_next.1 h
  exact .of_counters hrow hcol (List.append_nil _).symm rfl

theorem execStpix_foresees (hat : s.AtPixel j i) (hpix : s.pix = some (s.pixelAt j i)) (h : execStpix s = .next t) :
    Foresees (s.forecastAt Phase.stpix j i) s t := by
  obtain ⟨-, hrow, hcol, -, -, hy⟩ := hat
  obtain ⟨w, n, hw, hn, -, -, -, rfl⟩ := execStpix_eq_next.1 h
  obtain rfl := Option.some.inj (hy.symm.trans hn)
  obtain rfl := Option.some.inj (hpix.symm.trans hw)
  exact .of_counters hrow hcol rfl rfl

theorem execNext_foresees (hat : s.AtPixel j i) (h : execNext s = .next t) :
    Foresees (s.forecastAt Phase.next j i) s t := by
  obtain ⟨⟨-, ⟨hr, -⟩, ⟨hw, -⟩, -⟩, hrow, hcol, hj, hi, -⟩ := hat
  obtain ⟨_, c, -, hc, hadv⟩ := execNext_eq_next.1 h
  obtain rfl := Option.some.inj (hcol.symm.trans hc)
  rcases hadv with ⟨hmore, rfl⟩ | ⟨hend, r, hr', rfl⟩
  · refine .of_counters hrow rfl (List.append_nil _).symm (congrArg (fun f => Forecast.after f 1 []) ?_)
    split
    · rfl
    next hodd =>
      have hodd : (i + 1) % 2 ≠ 0 := fun h => hodd ((bit0Clear_iff _).2 h)
      exact State.forecastCols_of_odd hw (Nat.lt_of_le_of_ne hi hmore) (by omega)
  · obtain rfl := Option.some.inj (hrow.symm.trans hr')
    have hrest : s.forecastCols j (i + 1) = s.forecastRows (j + 1) := by rw [hend, State.forecastCols_end]
    refine .of_counters rfl rfl (List.append_nil _).symm (congrArg (fun f => Forecast.after f 1 []) (hrest.trans ?_))
    split
    next hlast =>
      rw [hlast, State.forecastRows_end]
      exact congrArg Forecast.fromUnpin hr.symm
    · rfl

/-- At a pixel the counters are its row and column (R22). -/
theorem Foresees.of_atPixel {p : PhaseCode} (hat : s.AtPixel j i) (h : Foresees (s.forecastAt p j i) s t) :
    Foresees (s.forecastAt p (s.row.getD 0) (s.col.getD 0)) s t := by
  obtain ⟨-, hrow, hcol, -⟩ := hat
  rwa [hrow, hcol]

end Pixel

/-- Outside `IDLE`, from the invariant at its own phase every operation is the first step of the forecast. -/
theorem exec_of_busy_foresees {s t : State} {i : Instr} (hp : s.phase ≠ Phase.idle)
    (hc : encode i = .phase s.phase) (hi : s.PhaseInv) (h : exec i s = .next t) : Foresees s.forecast s t := by
  unfold State.PhaseInv at hi
  unfold State.forecast
  generalize s.phase = p at hp hc hi
  cases i <;> cases hc
  case idle => exact absurd rfl hp
  case qinfo => exact execQinfo_foresees h
  case chkfmt => exact execChkfmt_foresees h
  case chkdim => exact execChkdim_foresees h
  case lockdst => exact execLockdst_foresees h
  case pinsrc => exact execPinsrc_foresees h
  case chklen => exact execChklen_foresees h
  case framestart =>
    obtain ⟨-, ⟨hr, -⟩, -⟩ := hi
    exact execFramestart_foresees hr h
  case rowstart =>
    obtain ⟨-, j, hrow, hj, -⟩ := hi
    rw [hrow]
    exact execRowstart_foresees hrow hj h
  case ldvu =>
    obtain ⟨j, i, hat, he, hc, -⟩ := hi
    exact .of_atPixel hat (execLdvu_foresees hat he hc h)
  case ldy =>
    obtain ⟨j, i, hat, -⟩ := hi
    exact .of_atPixel hat (execLdy_foresees hat h)
  case matrix =>
    obtain ⟨j, i, hat, -⟩ := hi
    exact .of_atPixel hat (execMatrix_foresees hat h)
  case clamp =>
    obtain ⟨j, i, hat, -⟩ := hi
    exact .of_atPixel hat (execClamp_foresees hat h)
  case pack =>
    obtain ⟨j, i, hat, -⟩ := hi
    exact .of_atPixel hat (execPack_foresees hat h)
  case stpix =>
    obtain ⟨j, i, hat, -, hpix, -⟩ := hi
    exact .of_atPixel hat (execStpix_foresees hat hpix h)
  case next =>
    obtain ⟨j, i, hat, -⟩ := hi
    exact .of_atPixel hat (execNext_foresees hat h)
  case unpin => exact execUnpin_foresees h
  case unlock => exact execUnlock_foresees h
  case ret => exact execRet_foresees h

end Sys2Proof.Machine
end

section
/-! PROOFS. A call runs as forecast, the forecast of a whole call is what R92, R138, R141 and R163 give, and it is the same
of two states that begin the same call (R31, R43). -/

namespace Sys2Proof.Machine

/-! The run. -/

/-- A call under way: what it keeps until `RET`, and a forecast that ends with `DONE`. -/
structure State.Underway (s : State) : Prop where
  result_le : s.result.toNat ≤ 6
  truthful : s.Truthful
  phaseInv : s.PhaseInv
  not_done : s.done = false
  forecast_done : s.forecast.done = true

/-- `IDLE` forecasts what stands, and `DONE` does not stand yet. -/
theorem State.Underway.busy {s : State} (h : s.Underway) : s.phase ≠ Phase.idle := by
  intro hp
  have hdone : s.forecast.done = s.done := by rw [State.forecast, hp]; rfl
  exact absurd (hdone.symm.trans h.forecast_done) (by rw [h.not_done]; decide)

/-- One step of a call under way: it goes on, as forecast, and leaves what is the host's. -/
theorem State.Underway.step {s : State} (h : s.Underway) :
    ∃ t, step s = .next t ∧ t.PhaseInv ∧ s.SameHostSide t ∧ Foresees s.forecast s t := by
  obtain ⟨t, ht, hinv⟩ := h.phaseInv.step_reaches h.busy h.result_le h.truthful
  obtain ⟨i, hc, hexec⟩ := step_eq_next_of_busy h.busy ht
  exact ⟨t, ht, hinv, (exec_of_busy_frame h.busy hc hexec).hostSide,
    exec_of_busy_foresees h.busy hc h.phaseInv hexec⟩

/-- Before `RET` the call stays under way. -/
theorem State.Underway.step_of_ne_ret {s t : State} (h : s.Underway) (hr : s.phase ≠ Phase.ret)
    (ht : Machine.step s = .next t) (hinv : t.PhaseInv) (hside : s.SameHostSide t)
    (hdone : t.forecast.done = s.forecast.done) : t.Underway where
  result_le := State.result_le_of_busy h.busy ht h.result_le
  truthful := hside.truthful h.truthful
  phaseInv := hinv
  not_done := by
    obtain ⟨-, -, hkeep, -⟩ := State.status_of_busy h.busy ht
    rw [hkeep hr, h.not_done]
  forecast_done := hdone.trans h.forecast_done

/-- How a call under way ends: back in `IDLE` with `DONE`, nothing held, the frame written unless the call has failed, and
all of it as forecast. -/
structure State.EndsAsForecast (s t : State) : Prop where
  idle : t.phase = Phase.idle
  done : t.done = true
  released : t.HoldsNothing
  frameDone : t.FrameDone
  hostSide : s.SameHostSide t
  result : t.result = s.forecast.result
  events : t.events = s.events ++ s.forecast.events

theorem State.SameHostSide.trans {s t u : State} (hst : s.SameHostSide t) (htu : t.SameHostSide u) :
    s.SameHostSide u := by
  obtain ⟨h1, h2, h3, h4, h5, h6, h7, h8, h9, h10⟩ := hst
  rw [State.SameHostSide, ← h1, ← h2, ← h3, ← h4, ← h5, ← h6, ← h7, ← h8, ← h9, ← h10]
  exact htu

/-- `RET` ends the call (R91, R143). -/
theorem State.Underway.ret {s : State} (h : s.Underway) (hr : s.phase = Phase.ret) :
    core.run s.forecast.steps s = .next s.returnToHost ∧ s.EndsAsForecast s.returnToHost := by
  have hf : s.forecast = .fromRet s.result := by rw [State.forecast, hr]; rfl
  obtain ⟨hheld, -, hframe⟩ : s.HoldsNothing ∧ s.done = false ∧ s.FrameDone := by
    have hinv := h.phaseInv
    rw [State.PhaseInv, hr] at hinv
    exact hinv
  have hstep : Machine.step s = .next s.returnToHost := by
    rw [step_of_phase (i := .ret) h.busy (by rw [hr]; rfl)]
    exact execRet_eq_next.2 ⟨h.result_le, rfl⟩
  rw [hf]
  refine ⟨run_succ hstep, rfl, State.done_returnToHost s, hheld, ?_, State.SameHostSide.refl s, ?_, ?_⟩
  · rw [State.FrameDone, State.result_returnToHost]
    exact hframe
  · rw [hf, State.result_returnToHost]
    rfl
  · rw [hf]
    exact (List.append_nil _).symm

/-- A call under way runs as forecast, to its end. -/
theorem State.Underway.run {s : State} (h : s.Underway) :
    ∃ t, core.run s.forecast.steps s = .next t ∧ s.EndsAsForecast t := by
  induction hn : s.forecast.steps generalizing s with
  | zero =>
    obtain ⟨t, -, -, -, es, -, hf⟩ := h.step
    rw [hf] at hn
    cases hn
  | succ n ih =>
    by_cases hr : s.phase = Phase.ret
    · rw [← hn]
      exact ⟨_, h.ret hr⟩
    · obtain ⟨t, ht, hinv, hside, es, hes, hf⟩ := h.step
      have ht' : t.Underway := h.step_of_ne_ret hr ht hinv hside (by rw [hf]; rfl)
      obtain ⟨u, hu, hend⟩ := ih ht' (by rw [hf] at hn; exact Nat.succ.inj hn)
      refine ⟨u, (run_succ ht).trans hu, hend.idle, hend.done, hend.released, hend.frameDone,
        hside.trans hend.hostSide, ?_, ?_⟩
      · rw [hend.result, hf]
        rfl
      · rw [hend.events, hes, List.append_assoc, hf]
        rfl

/-! The forecast of a whole call. -/

theorem State.frameEvents_of_empty {s : State} (h : s.width = 0 ∨ s.height = 0) : s.frameEvents = [] := by
  rcases h with h | h <;> simp [State.frameEvents, h]

/-- The steps of all rows of an even frame, in the form of R163. -/
theorem rows_steps {w : Nat} (hw : w % 2 = 0) (h : Nat) :
    h * (1 + 6 * w + w / 2) = h + 6 * w * h + w * h / 2 := by
  obtain ⟨a, rfl⟩ : ∃ a, w = 2 * a := ⟨w / 2, by omega⟩
  rw [Nat.mul_assoc 2 a h, Nat.mul_div_cancel_left _ two_pos, Nat.mul_div_cancel_left _ two_pos]
  ring

theorem State.forecastFramestart_eq {s : State} (hw : s.width % 2 = 0) :
    s.forecastFramestart =
      ⟨if s.width = 0 ∨ s.height = 0 then 4 else 4 + s.height + 6 * s.width * s.height + s.width * s.height / 2,
        s.frameEvents ++ [.relSrc, .relDst], 0, true⟩ := by
  unfold State.forecastFramestart
  split
  next hempty =>
    rw [State.frameEvents_of_empty hempty]
    rfl
  next =>
    rw [State.forecastRows, Nat.sub_zero, rows_steps hw, State.frameEvents_eq_rowEvents]
    simp only [Forecast.after, Forecast.fromUnpin, Forecast.fromUnlock, Forecast.fromRet, Forecast.mk.injEq,
      List.nil_append, List.append_nil, List.singleton_append, and_true]
    omega

theorem State.not_evenDims_iff (s : State) : ¬ s.EvenDims ↔ s.width % 2 = 1 ∨ s.height % 2 = 1 := by
  unfold State.EvenDims
  omega

/-- `CHKLEN`'s condition in the form of R92 (R43, R88). -/
theorem State.lengths_iff (s : State) :
    (s.dstLen = s.planeSize ∧ s.planeSize + s.planeSize / 2 ≤ s.srcLen) ↔
      ¬ (s.dstLen ≠ s.width * s.height ∨ s.srcLen < s.width * s.height * 3 / 2) := by
  unfold State.planeSize
  omega

/-- The whole call as R92, R138, R141 and R163 give it. -/
def State.callForecast (s : State) : Forecast := ⟨s.callSteps, s.callEvents, s.callResult, true⟩

/-- The step of a call, from `QINFO` on, at which a kind is raised (R71, R138). -/
def FailureKind.raisedAt : FailureKind → Nat
  | .surfaceInfoUnavailable => 1
  | .unsupportedPixelFormat => 2
  | .invalidDimensions => 3
  | .surfaceLockFailed => 4
  | .sourceUnavailable => 5
  | .bufferSizeMismatch => 6

/-- The acquisitions made before a kind is raised (R139, R141). -/
def FailureKind.acquisitions : FailureKind → List Event
  | .sourceUnavailable => [.acqDst]
  | .bufferSizeMismatch => [.acqDst, .acqSrc]
  | .surfaceInfoUnavailable | .unsupportedPixelFormat | .invalidDimensions | .surfaceLockFailed => []

theorem State.callForecast_of_failure {s : State} (k : FailureKind) (h : s.callResult = k.code) :
    s.callForecast = (Forecast.failed k).after k.raisedAt k.acquisitions := by
  rw [State.callForecast, State.callSteps, State.callEvents, h]
  cases k <;> rfl

theorem State.callForecast_of_success {s : State} (hw : s.width % 2 = 0) (h : s.callResult = 0) :
    s.callForecast = s.forecastFramestart.after 6 [.acqDst, .acqSrc] := by
  have hsteps : s.callSteps = if s.width = 0 ∨ s.height = 0 then 10
      else 10 + s.height + 6 * s.width * s.height + s.width * s.height / 2 := by
    rw [State.callSteps, h]
    rfl
  have hevents : s.callEvents = [.acqDst, .acqSrc] ++ s.frameEvents ++ [.relSrc, .relDst] := by
    rw [State.callEvents, h]
    rfl
  rw [State.callForecast, hsteps, hevents, h, State.forecastFramestart_eq hw]
  simp only [Forecast.after, Forecast.mk.injEq, List.append_assoc, and_true]
  split <;> omega

/-- The checks decide in the order of R138, and each one passed is one step. -/
theorem State.forecastQinfo_eq (s : State) : s.forecastQinfo = s.callForecast := by
  rw [State.forecastQinfo]
  by_cases h1 : s.infoOk = false
  · have hr : s.callResult = 1 := if_pos h1
    rw [s.callForecast_of_failure .surfaceInfoUnavailable hr, h1]
    rfl
  rw [if_pos (Bool.eq_true_of_not_eq_false h1), State.forecastChkfmt]
  by_cases h2 : s.dstFormat ≠ 1
  · have hr : s.callResult = 2 := by rw [State.callResult, if_neg h1, if_pos h2]
    rw [s.callForecast_of_failure .unsupportedPixelFormat hr,
      if_neg (show ¬ s.dstFormat = Config.fmtRgba8888 from h2), Forecast.after_after]
    rfl
  rw [if_pos (show s.dstFormat = Config.fmtRgba8888 from not_not.1 h2), State.forecastChkdim]
  by_cases h3 : s.width % 2 = 1 ∨ s.height % 2 = 1
  · have hr : s.callResult = 5 := by rw [State.callResult, if_neg h1, if_neg h2, if_pos h3]
    rw [s.callForecast_of_failure .invalidDimensions hr,
      if_neg (mt s.bit0Clear_dims_iff.1 (s.not_evenDims_iff.2 h3)), Forecast.after_after, Forecast.after_after]
    rfl
  have heven : s.EvenDims := not_not.1 (mt s.not_evenDims_iff.1 h3)
  rw [if_pos (s.bit0Clear_dims_iff.2 heven), State.forecastLockdst]
  by_cases h4 : s.lockOk = false
  · have hr : s.callResult = 3 := by rw [State.callResult, if_neg h1, if_neg h2, if_neg h3, if_pos h4]
    rw [s.callForecast_of_failure .surfaceLockFailed hr, h4]
    rfl
  rw [if_pos (Bool.eq_true_of_not_eq_false h4), State.forecastPinsrc]
  by_cases h5 : s.srcOk = false
  · have hr : s.callResult = 4 := by
      rw [State.callResult, if_neg h1, if_neg h2, if_neg h3, if_neg h4, if_pos h5]
    rw [s.callForecast_of_failure .sourceUnavailable hr, h5]
    rfl
  rw [if_pos (Bool.eq_true_of_not_eq_false h5), State.forecastChklen]
  by_cases h6 : s.dstLen ≠ s.width * s.height ∨ s.srcLen < s.width * s.height * 3 / 2
  · have hr : s.callResult = 6 := by
      rw [State.callResult, if_neg h1, if_neg h2, if_neg h3, if_neg h4, if_neg h5, if_pos h6]
    rw [s.callForecast_of_failure .bufferSizeMismatch hr, if_neg (mt s.lengths_iff.1 (not_not.2 h6))]
    rfl
  · have hr : s.callResult = 0 := by
      rw [State.callResult, if_neg h1, if_neg h2, if_neg h3, if_neg h4, if_neg h5, if_neg h6]
    rw [State.callForecast_of_success heven.1 hr, if_pos (s.lengths_iff.2 h6)]
    simp only [Forecast.after_after, List.nil_append, List.append_nil, List.singleton_append]

/-! A call from `START` to its end. -/

/-- The word of a pixel depends on the dimensions and its three bytes alone (R108, R130). -/
theorem State.pixelAt_congr {s t : State} {j i : Nat} (hw : t.width = s.width) (hh : t.height = s.height)
    (hy : t.src.read (lumaIndex s.width j i) = s.src.read (lumaIndex s.width j i))
    (hu : t.src.read (uIndex s.width s.height j i) = s.src.read (uIndex s.width s.height j i))
    (hv : t.src.read (vIndex s.width s.height j i) = s.src.read (vIndex s.width s.height j i)) :
    t.pixelAt j i = s.pixelAt j i := by
  rw [State.pixelAt, State.pixelAt, hw, hh, hy, hu, hv]

theorem State.CallBegins.step_eq {s : State} (h : s.CallBegins) :
    step s = .next { s with host := s.host.tail }.start := by
  obtain ⟨hp, hcmd, -, htr⟩ := h
  obtain ⟨ms, hh⟩ := (s.pendingCommand_eq_some _).1 hcmd
  rw [step_of_write hp hh, hh]
  exact State.beginCall_of_truthful htr

theorem State.CallBegins.underway {s : State} (h : s.CallBegins) :
    State.Underway { s with host := s.host.tail }.start := by
  obtain ⟨-, -, hheld, htr⟩ := h
  exact
    { result_le := by rw [State.result_start]; decide
      truthful := htr
      phaseInv := ⟨hheld, State.result_start _, State.done_start _⟩
      not_done := State.done_start _
      forecast_done := congrArg Forecast.done (State.forecastQinfo_eq _) }

/-- A call runs for the steps of R163, and owes what R92, R138 and R141 say. -/
theorem State.CallBegins.run {s : State} (h : s.CallBegins) :
    ∃ t, core.run (s.callSteps + 1) s = .next t ∧ s.CallEnds t ∧ t.result = s.callResult ∧
      t.events = s.events ++ s.callEvents ∧
      (s.callResult = 0 → ∀ j i, j < s.height → i < s.width →
        t.dst.slot (lumaIndex s.width j i) = s.pixelAt j i) := by
  obtain ⟨t, hrun, hend⟩ := h.underway.run
  have hf : State.forecast { s with host := s.host.tail }.start = s.callForecast := s.forecastQinfo_eq
  obtain ⟨hidle, hdone, hheld, hframe, hside, hres, hev⟩ := hend
  rw [hf] at hrun hres hev
  obtain ⟨hw, hh, hfmt, hsl, hdl, hrsp, hsrc, hss, hds, hhost⟩ := hside
  refine ⟨t, (run_succ h.step_eq).trans hrun, ⟨hidle, hdone, hheld, hsrc, hss, hds, hw, hh, hfmt, hsl, hdl, hrsp, hhost⟩,
    hres, hev, fun hok j i hj hi => ?_⟩
  have hlt : lumaIndex t.width j i < t.width * t.height := by
    rw [hw, hh]
    exact lumaIndex_lt hj hi
  have hslot := hframe (hres.trans hok) j i (hh.symm ▸ hj) (hw.symm ▸ hi) hlt
  rw [State.pixelAt_congr hw hh (by rw [hsrc]) (by rw [hsrc]) (by rw [hsrc]), hw] at hslot
  exact hslot

/-! Two calls on the same descriptor, replies and frame (R31, R43). -/

section SameCall

variable {s s' : State}

theorem SameCall.width_eq (h : SameCall s s') : s'.width = s.width := h.1

theorem SameCall.height_eq (h : SameCall s s') : s'.height = s.height := h.2.1

theorem SameCall.callResult_eq (h : SameCall s s') : s'.callResult = s.callResult := by
  obtain ⟨hw, hh, hfmt, hsl, hdl, hrsp, -⟩ := h
  unfold State.callResult State.infoOk State.lockOk State.srcOk
  rw [hw, hh, hfmt, hsl, hdl, hrsp]

theorem SameCall.callSteps_eq (h : SameCall s s') : s'.callSteps = s.callSteps := by
  rw [State.callSteps, State.callSteps, h.callResult_eq, h.width_eq, h.height_eq]

/-- A call succeeds on even dimensions alone (R85). -/
theorem State.evenDims_of_callResult (h : s.callResult = 0) : s.EvenDims := by
  by_contra hodd
  rw [State.callResult, if_pos (s.not_evenDims_iff.1 hodd)] at h
  split_ifs at h <;> exact absurd h (by decide)

/-- The three bytes of every pixel lie inside the frame (R41 to R43). -/
theorem SameCall.pixelAt_eq {j i : Nat} (h : SameCall s s') (he : s.EvenDims) (hj : j < s.height) (hi : i < s.width) :
    s'.pixelAt j i = s.pixelAt j i := by
  obtain ⟨hw, hh, -, -, -, -, hread⟩ := h
  have hu := uIndex_lt he.1 he.2 hj hi
  have hv : vIndex s.width s.height j i < frameLength s.width s.height := Nat.lt_of_succ_lt hu
  have hy : lumaIndex s.width j i < frameLength s.width s.height :=
    Nat.lt_of_lt_of_le (lumaIndex_lt hj hi) (Nat.le_add_right _ _)
  exact State.pixelAt_congr hw hh (hread _ hy) (hread _ hu) (hread _ hv)

theorem SameCall.pixelEvents_eq {j i : Nat} (h : SameCall s s') (he : s.EvenDims) (hj : j < s.height)
    (hi : i < s.width) : s'.pixelEvents j i = s.pixelEvents j i := by
  rw [State.pixelEvents, State.pixelEvents, State.pixelReads, State.pixelReads, h.pixelAt_eq he hj hi, h.width_eq,
    h.height_eq]

theorem SameCall.frameEvents_eq (h : SameCall s s') (he : s.EvenDims) : s'.frameEvents = s.frameEvents := by
  rw [State.frameEvents, State.frameEvents, h.width_eq, h.height_eq]
  exact List.flatMap_congr fun j hj => List.flatMap_congr fun i hi =>
    h.pixelEvents_eq he (List.mem_range.1 hj) (List.mem_range.1 hi)

theorem SameCall.callEvents_eq (h : SameCall s s') : s'.callEvents = s.callEvents := by
  rw [State.callEvents, State.callEvents, h.callResult_eq]
  split
  next hok => rw [h.frameEvents_eq (State.evenDims_of_callResult (BitVec.eq_of_toNat_eq hok))]
  all_goals rfl

end SameCall

/-- Every slot of the frame is that of a pixel (R45). -/
theorem exists_lumaIndex_eq {w h p : Nat} (hp : p < w * h) : ∃ j i, j < h ∧ i < w ∧ lumaIndex w j i = p := by
  have hw : 0 < w := Nat.pos_of_mul_pos_right (Nat.zero_lt_of_lt hp)
  exact ⟨p / w, p % w, Nat.div_lt_of_lt_mul hp, Nat.mod_lt _ hw, Nat.div_add_mod' p w⟩

/-- Settles O51: each call ends as R92, R138 and R141 say of its own state, and what they say is the same of both. -/
theorem callOutcomeDependsOnTheFrameAlone : Obligations.CallOutcomeDependsOnTheFrameAlone := by
  intro s s' hs hs' hsame
  obtain ⟨t, hrun, hends, hres, hev, hslots⟩ := hs.run
  obtain ⟨t', hrun', hends', hres', hev', hslots'⟩ := hs'.run
  rw [hsame.callSteps_eq] at hrun'
  rw [hsame.callResult_eq] at hres' hslots'
  rw [hsame.callEvents_eq] at hev'
  refine ⟨t, t', hrun, hrun', hends, hends', hres'.trans hres.symm, fun hok p hp => ?_, _, hev, hev'⟩
  obtain ⟨j, i, hj, hi, rfl⟩ := exists_lumaIndex_eq hp
  have hok : s.callResult = 0 := hres.symm.trans hok
  have hslot' := hslots' hok j i (hsame.height_eq ▸ hj) (hsame.width_eq ▸ hi)
  rw [hsame.width_eq, hsame.pixelAt_eq (State.evenDims_of_callResult hok) hj hi] at hslot'
  rw [hslot', hslots hok j i hj hi]

end Sys2Proof.Machine
end

section
/-! PROOFS. The two spaces: what an access out of range, or to a buffer not held, does (R46, R47, R150, R161), which
accesses each operation records (R40), where they lie in the frame (R44, R47), and those of a whole call (R108, R141). -/

namespace Sys2Proof.Machine

/-! An access out of range, or to a buffer not held (R46, R47, R150, R161). -/

section BadAccess

variable {s : State}

theorem execLdy_of_bad_read {n : Nat} (hn : s.yIndex = some n)
    (h : s.srcHeld = false ∨ s.srcLen ≤ n ∨ s.srcSize ≤ n) : execLdy s = .fault (.badSrcRead n) := by
  rw [execLdy, hn, settle_readReg_some_bind, State.srcRead_error h]
  rfl

theorem execLdvu_of_bad_v_read {c : Nat} (hc : s.uvCursor = some c)
    (h : s.srcHeld = false ∨ s.srcLen ≤ c ∨ s.srcSize ≤ c) : execLdvu s = .fault (.badSrcRead c) := by
  rw [execLdvu, hc, settle_readReg_some_bind, State.srcRead_error h]
  rfl

/-- V is the last byte in range, so the read of U fails (R103). -/
theorem execLdvu_of_bad_u_read {c : Nat} (hc : s.uvCursor = some c) (hheld : s.srcHeld = true) (hlen : c < s.srcLen)
    (hsize : c < s.srcSize) (h : s.srcLen ≤ c + 1 ∨ s.srcSize ≤ c + 1) :
    execLdvu s = .fault (.badSrcRead (c + 1)) := by
  have hu : (s.log (.rd c)).srcRead (c + 1) = .error (.badSrcRead (c + 1)) := State.srcRead_error (.inr h)
  rw [execLdvu, hc, settle_readReg_some_bind, State.srcRead_of_held hheld hlen hsize]
  change settle ((s.log (.rd c)).srcRead (c + 1) >>= _) = _
  rw [hu]
  rfl

theorem execStpix_of_bad_write {w : Pixel} {n : Nat} (hw : s.pix = some w) (hn : s.yIndex = some n)
    (h : s.dstHeld = false ∨ s.dstLen ≤ n ∨ s.dstSize ≤ n) : execStpix s = .fault (.badDstWrite n) := by
  rw [execStpix, hw, hn, settle_readReg_some_bind, settle_readReg_some_bind, State.dstWrite_error h]
  rfl

end BadAccess

/-- Settles O33: each meaning goes on with what `SrcRead` or `DstWrite` answers, and that is the fault. -/
theorem accessOutsideTheBufferFaults : Obligations.AccessOutsideTheBufferFaults := fun _ =>
  ⟨fun _ => execLdy_of_bad_read, fun _ => execLdvu_of_bad_v_read,
    fun _ hc hheld hlen hsize h => execLdvu_of_bad_u_read hc hheld hlen hsize (h.imp Eq.le Eq.le),
    fun _ _ => execStpix_of_bad_write⟩

/-! The accesses an operation records (R40, R46, R47, R74). -/

/-- What an operation may record of the two spaces: which operation reads or writes, through which counter, and the
declared length and the attached buffer it stays in. -/
structure StepAccesses (i : Instr) (s : State) (new : List Event) : Prop where
  rd : ∀ n, Event.rd n ∈ new →
    (i = .ldvu ∧ (∃ c, s.uvCursor = some c ∧ (n = c ∨ n = c + 1)) ∨ i = .ldy ∧ s.yIndex = some n) ∧
      n < s.srcLen ∧ n < s.srcSize
  wr : ∀ p w, Event.wr p w ∈ new → i = .stpix ∧ s.yIndex = some p ∧ p < s.dstLen ∧ p < s.dstSize

/-- An acquisition or a release is no access. -/
theorem StepAccesses.of_subset {i : Instr} {s : State} {new : List Event}
    (h : new ⊆ [.acqDst, .acqSrc, .relSrc, .relDst]) : StepAccesses i s new where
  rd n hn := by simpa using h hn
  wr p w hw := by simpa using h hw

/-- An operation appends to the history, and only accesses of its own. -/
def RecordsAccesses (i : Instr) (s t : State) : Prop := ∃ new, t.events = s.events ++ new ∧ StepAccesses i s new

theorem RecordsAccesses.silent {i : Instr} {s t : State} (h : t.events = s.events) : RecordsAccesses i s t :=
  ⟨[], by rw [h, List.append_nil], .of_subset (List.nil_subset _)⟩

theorem execLdvu_records {s t : State} (h : execLdvu s = .next t) : RecordsAccesses .ldvu s t := by
  obtain ⟨c, hc, -, hlen, hsize, rfl⟩ := execLdvu_eq_next.1 h
  refine ⟨[.rd c, .rd (c + 1)], List.append_assoc _ _ _, fun n hn => ?_, fun p w hw => by simp at hw⟩
  obtain hn : n = c ∨ n = c + 1 := by simpa using hn
  exact ⟨.inl ⟨rfl, c, hc, hn⟩, by omega, by omega⟩

theorem execLdy_records {s t : State} (h : execLdy s = .next t) : RecordsAccesses .ldy s t := by
  obtain ⟨n, hy, -, hlen, hsize, rfl⟩ := execLdy_eq_next.1 h
  refine ⟨[.rd n], rfl, fun m hm => ?_, fun p w hw => by simp at hw⟩
  obtain rfl : m = n := by simpa using hm
  exact ⟨.inr ⟨rfl, hy⟩, hlen, hsize⟩

theorem execStpix_records {s t : State} (h : execStpix s = .next t) : RecordsAccesses .stpix s t := by
  obtain ⟨w, n, -, hy, -, hlen, hsize, rfl⟩ := execStpix_eq_next.1 h
  refine ⟨[.wr n w], rfl, fun m hm => by simp at hm, fun p v hv => ?_⟩
  obtain ⟨rfl, -⟩ : p = n ∧ v = w := by simpa using hv
  exact ⟨rfl, hy, hlen, hsize⟩

/-- Every operation but `IDLE` and `CONVERT` records accesses of its own alone. -/
theorem exec_of_busy_records {s t : State} {i : Instr} {p : PhaseCode} (hp : p ≠ Phase.idle)
    (hc : encode i = .phase p) (h : exec i s = .next t) : RecordsAccesses i s t := by
  cases i with
  | idle => exact absurd (Code.phase.inj hc).symm hp
  | convert => cases hc
  | qinfo | chkfmt | chkdim | chklen =>
    cases h
    split <;> exact .silent rfl
  | lockdst | pinsrc =>
    cases h
    split
    · exact ⟨_, rfl, .of_subset (by simp)⟩
    · exact .silent rfl
  | unpin | unlock => cases h; exact ⟨_, rfl, .of_subset (by simp)⟩
  | framestart => cases h; exact .silent rfl
  | rowstart =>
    obtain ⟨_, -, rfl⟩ := execRowstart_eq_next.1 h
    exact .silent rfl
  | ldvu => exact execLdvu_records h
  | ldy => exact execLdy_records h
  | matrix =>
    obtain ⟨-, _, _, _, -, -, -, rfl⟩ := execMatrix_eq_next.1 h
    exact .silent rfl
  | clamp =>
    obtain ⟨_, _, _, -, -, -, rfl⟩ := execClamp_eq_next.1 h
    exact .silent rfl
  | pack =>
    obtain ⟨_, _, _, -, -, -, rfl⟩ := execPack_eq_next.1 h
    exact .silent rfl
  | stpix => exact execStpix_records h
  | next =>
    obtain ⟨_, _, -, -, ⟨-, rfl⟩ | ⟨-, _, -, rfl⟩⟩ := execNext_eq_next.1 h <;> exact .silent rfl
  | ret =>
    obtain ⟨-, rfl⟩ := execRet_eq_next.1 h
    exact .silent rfl

/-- Settles O40: what each operation leaves of the destination, and which accesses it records. -/
theorem spacesAreReachedByTheirOperationsAlone : Obligations.SpacesAreReachedByTheirOperationsAlone := by
  intro s t hp h
  obtain ⟨i, hc, hexec⟩ := step_eq_next_of_busy hp h
  obtain ⟨new, hev, hrd, hwr⟩ := exec_of_busy_records hp hc hexec
  refine ⟨fun hne => ?_, new, hev, fun p w hw => ?_, fun n hn => ?_⟩
  · obtain heq | ⟨rfl, -⟩ := (exec_of_busy_frame hp hc hexec).dst
    · exact heq
    · exact absurd (Code.phase.inj hc).symm hne
  · obtain ⟨rfl, -⟩ := hwr p w hw
    exact (Code.phase.inj hc).symm
  · obtain ⟨⟨rfl, -⟩ | ⟨rfl, -⟩, -⟩ := hrd n hn
    · exact .inl (Code.phase.inj hc).symm
    · exact .inr (Code.phase.inj hc).symm

/-! Where the accesses lie (R41 to R45, R47). -/

/-- At `LDVU` the cursor stands at the pair of a pixel, whose two bytes lie inside the frame (R42, R44). -/
theorem State.PhaseInv.chroma_lt {s : State} {c : Nat} (hi : s.PhaseInv) (hp : s.phase = Phase.ldvu)
    (hc : s.uvCursor = some c) : c + 1 < s.width * s.height * 3 / 2 := by
  rw [State.PhaseInv, hp] at hi
  obtain ⟨j, i, ⟨⟨-, -, ⟨hw, hh⟩, -⟩, -, -, hj, hcol, -⟩, -, hcur, -⟩ := hi
  obtain rfl := Option.some.inj (hcur.symm.trans hc)
  rw [mul_three_halves hw]
  exact uIndex_lt hw hh hj hcol

/-- At `LDY` and at `STPIX` the luma index is that of a pixel, inside the frame (R41, R44, R45). -/
theorem State.PhaseInv.luma_lt {s : State} {n : Nat} (hi : s.PhaseInv)
    (hp : s.phase = Phase.ldy ∨ s.phase = Phase.stpix) (hn : s.yIndex = some n) : n < s.width * s.height := by
  obtain ⟨j, i, hat⟩ : ∃ j i, s.AtPixel j i := by
    unfold State.PhaseInv at hi
    rcases hp with hp | hp
    all_goals
      rw [hp] at hi
      obtain ⟨j, i, hat, -⟩ := hi
      exact ⟨j, i, hat⟩
  have hlt := hat.lumaIndex_lt
  obtain ⟨-, -, -, -, -, hy⟩ := hat
  rwa [Option.some.inj (hn.symm.trans hy)]

/-- Settles O43: the declared length and the buffer by what each access demands, the frame by where the invariant has
the counters. -/
theorem accessesStayInsideTheFrame : Obligations.AccessesStayInsideTheFrame := by
  rintro s t ⟨-, -, -, -, -, hinv⟩ hp h
  obtain ⟨i, hc, hexec⟩ := step_eq_next_of_busy hp h
  obtain ⟨new, hev, hrd, hwr⟩ := exec_of_busy_records hp hc hexec
  refine ⟨new, hev, fun n hn => ?_, fun p w hw => ?_⟩
  · obtain ⟨hby, hlen⟩ := hrd n hn
    refine ⟨?_, hlen⟩
    rcases hby with ⟨rfl, c, hcur, hnc⟩ | ⟨rfl, hy⟩
    · have := hinv.chroma_lt (Code.phase.inj hc).symm hcur
      omega
    · have := hinv.luma_lt (.inl (Code.phase.inj hc).symm) hy
      omega
  · obtain ⟨rfl, hy, hlen⟩ := hwr p w hw
    exact ⟨hinv.luma_lt (.inr (Code.phase.inj hc).symm) hy, hlen⟩

/-! The accesses of a whole call (R100, R108, R141). -/

theorem State.callEvents_of_success {s : State} (h : s.callResult = 0) :
    s.callEvents = [.acqDst, .acqSrc] ++ s.frameEvents ++ [.relSrc, .relDst] := by
  rw [State.callEvents, h]
  rfl

/-- Settles O50: a call runs as forecast, and this model's order of the reads of a pixel is one that R100 allows. -/
theorem successfulCallEventsAreTheRaster : Obligations.SuccessfulCallEventsAreTheRaster := by
  intro s hs hok
  obtain ⟨t, hrun, -, -, hev, -⟩ := hs.run
  refine ⟨t, s.pixelReads, hrun, fun j i => .refl _, ?_⟩
  rw [hev, State.callEvents_of_success hok, ← List.append_assoc, ← List.append_assoc]
  rfl

end Sys2Proof.Machine
end

section
/-! PROOFS. The codes (R67, R70, R76), the reserved ones (R72, R150), and `CONVERT` and `RET` where they begin a call, are
refused, or meet a reserved `RESULT` (R80, R81, R91, D31). -/

namespace Sys2Proof.Machine

/-! Decoding and encoding. -/

theorem decode_encode (i : Instr) : decode (encode i) = .ok i := by
  cases i <;> rfl

theorem decodeCommand_eq_ok {b : BitVec 8} {i : Instr} (h : decodeCommand b = .ok i) : encode i = .cmd b := by
  unfold decodeCommand at h
  split at h
  next hb =>
    cases h
    rw [hb, encode]
  next => cases h

theorem encode_of_decode {c : Code} {i : Instr} (h : decode c = .ok i) : encode i = c := by
  cases c with
  | phase p => exact decodePhase_eq_ok h
  | cmd b => exact decodeCommand_eq_ok h

/-- All that the phase table can answer: 0 to 18 name operations, the rest are reserved (R70, R72). -/
theorem decodePhase_cases (p : PhaseCode) :
    (p.toNat ≤ 18 ∧ ∃ i, decodePhase p = .ok i) ∨
      (18 < p.toNat ∧ decodePhase p = .error (.reservedPhase p)) := by
  unfold decodePhase
  split
  case h_20 => exact .inr ⟨by grind, rfl⟩
  all_goals exact .inl ⟨by omega, _, rfl⟩

theorem decodePhase_of_reserved {p : PhaseCode} (h : 18 < p.toNat) :
    decodePhase p = .error (.reservedPhase p) := by
  rcases decodePhase_cases p with ⟨hle, -⟩ | ⟨-, herr⟩
  · exact absurd h (Nat.not_lt.2 hle)
  · exact herr

theorem decode_phase_ok_iff (p : PhaseCode) : (∃ i, decode (.phase p) = .ok i) ↔ p.toNat ≤ 18 := by
  change (∃ i, decodePhase p = .ok i) ↔ _
  rcases decodePhase_cases p with ⟨hle, hok⟩ | ⟨hlt, herr⟩
  · exact iff_of_true hok hle
  · refine iff_of_false ?_ (Nat.not_le.2 hlt)
    rw [herr]
    exact nofun

/-- Settles O3: an operation's code by its constructor, a code by its format, a phase by its row of the table. -/
theorem decodeAndEncodeAgree : Obligations.DecodeAndEncodeAgree :=
  ⟨decode_encode, fun _ _ => encode_of_decode, decode_phase_ok_iff⟩

/-- Settles O4: each word is the code of its operation. -/
theorem tableWordsDecode : Obligations.TableWordsDecode :=
  ⟨decode_encode .idle, decode_encode .chklen, decode_encode .ldvu, decode_encode .matrix, decode_encode .stpix,
    decode_encode .ret, decode_encode .convert⟩

/-! A step at a reserved phase. -/

theorem step_of_undecoded {s : State} {e : DecodeError} (h : decode s.fetch = .error e) : step s = s.undecoded e := by
  rw [step, h]

/-- Settles O6: a reserved phase is not `IDLE`, so it is the code fetched, and the decoder has no operation for it. -/
theorem reservedPhaseFaults : Obligations.ReservedPhaseFaults := by
  intro s h
  have hp : s.phase ≠ Phase.idle := fun hidle => by simp [hidle] at h
  have hd : decode s.fetch = .error (.reservedPhase s.phase) := by
    rw [State.fetch_of_busy hp]
    exact decodePhase_of_reserved h
  rw [step_of_undecoded hd, State.undecoded]

/-! `CONVERT`. -/

theorem execConvert_of_idle {s : State} (hp : s.phase = Phase.idle) : execConvert s = s.takeCommand.beginCall :=
  if_pos hp

theorem execConvert_of_busy {s : State} (hp : s.phase ≠ Phase.idle) : execConvert s = .refused .startWhileBusy :=
  if_neg hp

/-- The pending command is taken from the head of the pending moves, and no other field is touched (R17). -/
theorem State.takeCommand_eq (s : State) :
    s.takeCommand = { s with host := if s.pendingCommand.isSome then s.host.tail else s.host } := by
  cases h : s.pendingCommand <;> simp [State.takeCommand, h]

theorem State.not_truthful_iff (s : State) : ¬ s.Truthful ↔ s.srcSize < s.srcLen ∨ s.dstSize < s.dstLen := by
  rw [not_and_or, Nat.not_le, Nat.not_le]

/-- `START` clears `RESULT` and `DONE` and keeps the reserved bits (R18, R81). -/
theorem State.start_statusIs (s : State) : StatusIs s.status s.start.status 0 false :=
  ⟨State.result_start s, State.done_start s, by simp⟩

/-- Settles O9: in `IDLE` the command is taken and the call begun, if the lengths allow; elsewhere it is refused. -/
theorem convertBeginsTheCall : Obligations.ConvertBeginsTheCall := by
  intro s
  refine ⟨fun hp htr => ⟨s.start.status, s.start_statusIs, ?_⟩, fun hp hun => ?_, execConvert_of_busy⟩
  · calc
      exec .convert s = s.takeCommand.beginCall := execConvert_of_idle hp
      _ = .next s.takeCommand.start := State.beginCall_of_truthful (s.truthful_takeCommand.2 htr)
      _ = _ := by rw [s.takeCommand_eq]; rfl
  · have hun : ¬ s.takeCommand.Truthful := mt s.truthful_takeCommand.1 (s.not_truthful_iff.2 hun)
    exact (execConvert_of_idle hp).trans (State.beginCall_of_untruthful hun)

/-! A reserved `RESULT`. -/

theorem execRet_of_reserved_result {s : State} (h : 6 < s.result.toNat) :
    execRet s = .fault (.reservedResult s.result) := by
  rw [execRet, State.readResult_of_lt h]
  rfl

theorem State.applyMove_read_status_of_reserved {s : State} (h : 6 < s.result.toNat) :
    s.applyMove (.read .status) = .fault (.reservedResult s.result) := by
  rw [State.applyMove, State.crRead_status_of_lt h]
  rfl

/-- Settles O52: `RET` and the host's read of `STATUS` both begin by reading `RESULT` as an outcome. -/
theorem reservedResultFaults : Obligations.ReservedResultFaults := by
  intro s h
  refine ⟨execRet_of_reserved_result h, fun ms hp hh => ?_⟩
  rw [step_of_move hp hh]
  exact State.applyMove_read_status_of_reserved h

end Sys2Proof.Machine
end

section
/-! PROOFS. A call as a whole: what it does to the destination can be read off the stores it records (R40, R47, R92), so a
failing call leaves the destination alone and a successful one every byte beyond the frame. -/

namespace Sys2Proof.Machine

/-! The destination follows the stores recorded. -/

/-- The destination after the stores among some events, in their order (R47, R74). -/
def Memory.replay (m : Memory) : List Event → Memory
  | [] => m
  | .wr p w :: es => (m.writeSlot p w).replay es
  | _ :: es => m.replay es

theorem Memory.replay_append (m : Memory) (ds es : List Event) : m.replay (ds ++ es) = (m.replay ds).replay es := by
  induction ds generalizing m with
  | nil => rfl
  | cons d ds ih => cases d <;> exact ih _

theorem Memory.replay_of_no_store (m : Memory) {es : List Event} (h : ∀ p w, Event.wr p w ∉ es) :
    m.replay es = m := by
  induction es with
  | nil => rfl
  | cons e es ih =>
    have ih := ih fun p w hw => h p w (List.mem_cons_of_mem _ hw)
    cases e with
    | wr p w => exact absurd List.mem_cons_self (h p w)
    | rd | acqDst | acqSrc | relSrc | relDst | crRead => exact ih

/-- Stores into the slots below `n` leave the bytes from slot `n` on. -/
theorem Memory.read_replay_of_le (m : Memory) {es : List Event} {n a : Nat} (h : ∀ p w, Event.wr p w ∈ es → p < n)
    (ha : slotOffset n ≤ a) : (m.replay es).read a = m.read a := by
  induction es generalizing m with
  | nil => rfl
  | cons e es ih =>
    have ih := fun m' => ih m' fun p w hw => h p w (List.mem_cons_of_mem _ hw)
    cases e with
    | wr p w =>
      have hp : p < n := h p w List.mem_cons_self
      have hout : ¬ (slotOffset p ≤ a ∧ a < slotOffset p + 4) := by
        unfold slotOffset at ha ⊢
        omega
      exact (ih _).trans (by rw [Memory.read_writeSlot, if_neg hout])
    | rd | acqDst | acqSrc | relSrc | relDst | crRead => exact ih m

/-- The events added from `s` to `t` hold every store that made the destination of `t` from that of `s` (R40, R54). -/
def State.Replays (s t : State) : Prop := ∃ new, t.events = s.events ++ new ∧ t.dst = s.dst.replay new

theorem State.Replays.trans {s t u : State} (hst : s.Replays t) (htu : t.Replays u) : s.Replays u := by
  obtain ⟨ds, hds, hd⟩ := hst
  obtain ⟨es, hes, he⟩ := htu
  exact ⟨ds ++ es, by rw [hes, hds, List.append_assoc], by rw [he, hd, Memory.replay_append]⟩

/-- A step outside `IDLE` records the one store it makes: `STPIX` its word, every other operation none. -/
theorem State.replays_of_busy {s t : State} (hp : s.phase ≠ Phase.idle) (h : step s = .next t) : s.Replays t := by
  obtain ⟨i, hc, hexec⟩ := step_eq_next_of_busy hp h
  by_cases hi : i = .stpix
  · subst hi
    obtain ⟨w, n, -, -, -, -, -, rfl⟩ := execStpix_eq_next.1 hexec
    exact ⟨[.wr n w], rfl, rfl⟩
  · obtain ⟨new, hev, -, hwr⟩ := exec_of_busy_records hp hc hexec
    have hkeep : t.dst = s.dst := (exec_of_busy_frame hp hc hexec).dst.resolve_right fun hst => hi hst.1
    have hnone : ∀ p w, Event.wr p w ∉ new := fun p w hw => hi (hwr p w hw).1
    exact ⟨new, hev, by rw [hkeep, Memory.replay_of_no_store _ hnone]⟩

/-- A call under way records all its stores, to its end. -/
theorem State.Underway.replays {s t : State} (h : s.Underway) (hrun : core.run s.forecast.steps s = .next t) :
    s.Replays t := by
  induction hn : s.forecast.steps generalizing s with
  | zero =>
    obtain ⟨u, -, -, -, es, -, hf⟩ := h.step
    rw [hf] at hn
    cases hn
  | succ n ih =>
    obtain ⟨u, hu, hinv, hside, es, -, hf⟩ := h.step
    have hsu := State.replays_of_busy h.busy hu
    rw [hn, run_succ hu] at hrun
    by_cases hr : s.phase = Phase.ret
    · have hlast : n = 0 := by
        rw [State.forecast, hr] at hn
        exact (Nat.succ.inj hn).symm
      rw [hlast] at hrun
      obtain rfl := Host.Outcome.next.inj hrun
      exact hsu
    · have hu' : u.Underway := h.step_of_ne_ret hr hu hinv hside (by rw [hf]; rfl)
      have hn' : u.forecast.steps = n := by
        rw [hf] at hn
        exact Nat.succ.inj hn
      exact hsu.trans (ih hu' (hn' ▸ hrun) hn')

/-- The destination a whole call leaves is what the stores of R108 and R141 make of it. -/
theorem State.CallBegins.dst_eq {s t : State} (h : s.CallBegins) (hrun : core.run (s.callSteps + 1) s = .next t)
    (hev : t.events = s.events ++ s.callEvents) : t.dst = s.dst.replay s.callEvents := by
  have hf : State.forecast { s with host := s.host.tail }.start = s.callForecast := s.forecastQinfo_eq
  rw [run_succ h.step_eq] at hrun
  obtain ⟨new, hnew, hdst⟩ := h.underway.replays (by rw [hf]; exact hrun)
  obtain rfl : new = s.callEvents := List.append_cancel_left (hnew.symm.trans hev)
  exact hdst

/-! The stores of a call. -/

theorem State.callEvents_no_store_of_failure {s : State} (h : s.callResult ≠ 0) (p : Nat) (w : Pixel) :
    Event.wr p w ∉ s.callEvents := by
  unfold State.callEvents
  split
  next hok => exact absurd (BitVec.eq_of_toNat_eq hok) h
  all_goals simp

/-- Every store of a frame goes to the slot of a pixel of it (R45, R92). -/
theorem State.frameEvents_store_lt {s : State} {p : Nat} {w : Pixel} (h : Event.wr p w ∈ s.frameEvents) :
    p < s.width * s.height := by
  simp only [State.frameEvents, List.mem_flatMap, List.mem_range] at h
  obtain ⟨j, hj, i, hi, hmem⟩ := h
  obtain ⟨rfl, -⟩ : p = lumaIndex s.width j i ∧ w = s.pixelAt j i := by
    simpa [State.pixelEvents] using hmem
  exact lumaIndex_lt hj hi

theorem State.callEvents_store_lt {s : State} (h : s.callResult = 0) {p : Nat} {w : Pixel}
    (hw : Event.wr p w ∈ s.callEvents) : p < s.width * s.height := by
  rw [State.callEvents_of_success h] at hw
  exact State.frameEvents_store_lt (by simpa using hw)

/-! The outcome of a call. -/

/-- Settles O48: a call runs as forecast, and the events of a failing one hold no store. -/
theorem failingCallReportsAndWritesNothing : Obligations.FailingCallReportsAndWritesNothing := by
  intro s hs hfail
  obtain ⟨t, hrun, hends, hres, hev, -⟩ := hs.run
  have hdst : t.dst = s.dst :=
    (hs.dst_eq hrun hev).trans (Memory.replay_of_no_store _ (State.callEvents_no_store_of_failure hfail))
  exact ⟨t, hrun, hends, hres, hdst, hev⟩

/-- Settles O49: the invariant has every slot of the frame written at the end, and no store went beyond the frame. -/
theorem successfulCallConvertsTheFrame : Obligations.SuccessfulCallConvertsTheFrame := by
  intro s hs hok
  obtain ⟨t, hrun, hends, hres, hev, hslots⟩ := hs.run
  refine ⟨t, hrun, hends, hres.trans hok, hslots hok, fun a ha => ?_⟩
  rw [hs.dst_eq hrun hev]
  exact Memory.read_replay_of_le _ (fun _ _ => State.callEvents_store_lt hok) ha

end Sys2Proof.Machine
end

section
/-! PROOFS. Family 40, one micro-operation at a time: `IDLE`, the checks and acquisitions, the releases and the return
(R81 to R91), and the buffers the host attaches (R93, R157). -/

namespace Sys2Proof.Machine

/-! `IDLE`. -/

theorem State.hostTurn_waits {s : State} (h : s.host = [] ∨ s.phase ≠ Phase.idle) : s.hostTurn = .next s := by
  rcases s.hostTurn_cases with ⟨hwait, -⟩ | ⟨m, ms, hp, hh, -⟩
  · exact hwait
  · rcases h with hnil | hbusy
    · rw [hh] at hnil
      cases hnil
    · exact absurd hp hbusy

/-- Settles O8: `IDLE` is the host's turn, and the host has no move. -/
theorem idleWaits : Obligations.IdleWaits := fun _ => State.hostTurn_waits

/-! The checks: each goes on where its condition holds and fails with its kind where not (R83 to R88). -/

section Check

variable {s t : State} {c : Prop} [Decidable c]

/-- `fail` is a failure taken: the code of its kind, the release head of its kind, nothing else (R139). -/
theorem failsTo_fail (s : State) (k : FailureKind) : FailsTo (.next (s.fail k)) s k.code k.releaseHead :=
  ⟨_, ⟨statusResult_withResult _ _, statusDone_withResult _ _, statusReserved_withResult _ _⟩, rfl⟩

theorem check_passes {o : State} (hc : c) :
    (.next (if c then t else o) : Host.Outcome State Fault Refusal) = .next t := by
  rw [if_pos hc]

theorem check_fails (k : FailureKind) (hc : ¬ c) :
    FailsTo (.next (if c then t else s.fail k)) s k.code k.releaseHead := by
  rw [if_neg hc]
  exact failsTo_fail s k

end Check

/-- Settles O10. -/
theorem qinfoAsksForTheSurface : Obligations.QinfoAsksForTheSurface := fun _ =>
  ⟨fun h => check_passes h, fun h => check_fails .surfaceInfoUnavailable (ne_true_of_eq_false h)⟩

/-- Settles O11. -/
theorem chkfmtAcceptsFormatOneAlone : Obligations.ChkfmtAcceptsFormatOneAlone := fun _ =>
  ⟨fun h => check_passes h, fun h => check_fails .unsupportedPixelFormat h⟩

/-- Settles O12: bit 0 of a dimension is its parity (R6). -/
theorem chkdimRejectsOddDimensions : Obligations.ChkdimRejectsOddDimensions := by
  intro s
  refine ⟨fun ⟨hw, hh⟩ => check_passes ?_, fun hodd => check_fails .invalidDimensions ?_⟩
  · exact s.bit0Clear_dims_iff.2 ⟨Nat.even_iff.1 hw, Nat.even_iff.1 hh⟩
  · exact mt s.bit0Clear_dims_iff.1 (s.not_evenDims_iff.2 (hodd.imp Nat.odd_iff.1 Nat.odd_iff.1))

/-- Settles O13. -/
theorem lockdstAcquiresTheDestination : Obligations.LockdstAcquiresTheDestination := fun _ =>
  ⟨fun h => check_passes h, fun h => check_fails .surfaceLockFailed (ne_true_of_eq_false h)⟩

/-- Settles O14. -/
theorem pinsrcAcquiresTheSource : Obligations.PinsrcAcquiresTheSource := fun _ =>
  ⟨fun h => check_passes h, fun h => check_fails .sourceUnavailable (ne_true_of_eq_false h)⟩

/-- Settles O15: the two clauses are complementary. -/
theorem chklenChecksBothLengths : Obligations.ChklenChecksBothLengths := by
  refine fun s => ⟨fun h => check_passes h, fun h => check_fails .bufferSizeMismatch ?_⟩
  rintro ⟨hdst, hsrc⟩
  rcases h with hne | hlt
  · exact hne hdst
  · exact absurd hsrc (Nat.not_le.2 hlt)

/-! The releases and the return (R89 to R91). -/

theorem execUnpin_eq (s : State) :
    execUnpin s = .next { s with srcHeld := false, events := s.events ++ [.relSrc], phase := Phase.unlock } := rfl

theorem execUnlock_eq (s : State) :
    execUnlock s = .next { s with dstHeld := false, events := s.events ++ [.relDst], phase := Phase.ret } := rfl

/-- The return sets `DONE` and keeps `RESULT` and the reserved bits (R91, R143). -/
theorem State.returnToHost_statusIs (s : State) : StatusIs s.status s.returnToHost.status s.result true :=
  ⟨State.result_returnToHost s, State.done_returnToHost s, statusReserved_withDone _ _⟩

/-- Settles O16: the releases have no condition, and `RET` goes on with every outcome of R68. -/
theorem releasesAndReturnComplete : Obligations.ReleasesAndReturnComplete := fun s =>
  ⟨execUnpin_eq s, execUnlock_eq s, fun hres => ⟨_, s.returnToHost_statusIs, execRet_eq_next.2 ⟨hres, rfl⟩⟩⟩

/-! The buffers the host attaches (R93, R157). -/

/-- A buffer attached from index 0 reads as its bytes, and blank beyond them (log 6). -/
theorem Memory.read_ofBytes_zero (bs : List Byte) (i : Nat) :
    (Memory.ofBytes 0 bs).read i = bs.getD i Memory.blank := by
  rw [Memory.read_ofBytes, if_pos (Nat.zero_le i), Nat.sub_zero]

/-- Settles O37: the step is the pending attachment. -/
theorem attachedBuffersReadBack : Obligations.AttachedBuffersReadBack := fun _ _ hp =>
  ⟨fun bs hh => ⟨_, step_of_move hp hh, Memory.read_ofBytes_zero bs⟩,
    fun ws hh => ⟨_, step_of_move hp hh, Memory.slot_ofSlots ws⟩⟩

end Sys2Proof.Machine
end

section
/-! PROOFS. Family 41, one micro-operation at a time: the sampler and the raster sequencer (R101 to R105, R107), and
where the chroma pair may change (R100, R106). -/

namespace Sys2Proof.Machine

/-! `FRAMESTART` and `ROWSTART` (R101, R102, R107). -/

theorem execFramestart_of_empty {s : State} (h : s.width = 0 ∨ s.height = 0) :
    execFramestart s = .next { s with yIndex := some 0, row := some 0, phase := Phase.unpin } := by
  rw [execFramestart, if_pos h, State.goto]

theorem execFramestart_of_nonempty {s : State} (h : s.width ≠ 0 ∧ s.height ≠ 0) :
    execFramestart s = .next { s with yIndex := some 0, row := some 0, phase := Phase.rowstart } := by
  rw [execFramestart, if_neg (not_or.2 h), State.goto]

/-- Settles O17: the two clauses are complementary. -/
theorem framestartClearsTheCounters : Obligations.FramestartClearsTheCounters := fun _ =>
  ⟨execFramestart_of_empty, execFramestart_of_nonempty⟩

/-- Settles O18: the row's chroma base is spelled out. -/
theorem rowstartSetsTheChromaCursor : Obligations.RowstartSetsTheChromaCursor := fun _ row hrow =>
  execRowstart_eq_next.2 ⟨row, hrow, rfl⟩

/-- A chroma row serves two luma rows (R42, R107). -/
theorem State.chromaBase_of_row_pair (s : State) {k row : Nat} (h : row = 2 * k ∨ row = 2 * k + 1) :
    s.chromaBase row = s.width * s.height + k * s.width := by
  have hk : row / 2 = k := by omega
  rw [State.chromaBase, hk, State.planeSize]

/-- Settles O19: the cursor `ROWSTART` sets is the base both rows of the pair have. -/
theorem rowPairsShareTheChromaBase : Obligations.RowPairsShareTheChromaBase := fun s _ row hrow hk =>
  ⟨_, execRowstart_eq_next.2 ⟨row, hrow, rfl⟩, congrArg some (s.chromaBase_of_row_pair hk)⟩

/-! `LDVU` and `LDY` (R103, R104). -/

/-- Settles O20: the two bytes are the chroma operands of R64. -/
theorem ldvuLoadsTheChromaPair : Obligations.LdvuLoadsTheChromaPair := by
  intro s c hc hheld hlen hsize
  refine ⟨chromaOperand (s.src.read c), chromaOperand (s.src.read (c + 1)), chromaOperand_toInt _,
    chromaOperand_toInt _, execLdvu_eq_next.2 ⟨c, hc, hheld, hlen, hsize, ?_⟩⟩
  rw [List.append_assoc, List.singleton_append]

/-- Settles O21: the byte is the luma operand of R64. -/
theorem ldyLoadsTheLuma : Obligations.LdyLoadsTheLuma := by
  intro s n hn hheld hlen hsize
  obtain ⟨-, hle⟩ := lumaOperand_range (s.src.read n)
  exact ⟨lumaOperand (s.src.read n), lumaOperand_toNat _, Int.ofNat_le.1 hle,
    execLdy_eq_next.2 ⟨n, hn, hheld, hlen, hsize, rfl⟩⟩

/-! `NEXT` (R105): the loop's choice, on the new values of the counters. -/

theorem bit0Clear_of_even {n : Nat} (h : Even n) : bit0Clear n = true := (bit0Clear_iff n).2 (Nat.even_iff.1 h)

theorem not_bit0Clear_of_odd {n : Nat} (h : Odd n) : ¬ bit0Clear n = true :=
  mt (bit0Clear_iff n).1 (Nat.mod_two_ne_zero.2 (Nat.odd_iff.1 h))

/-- Settles O22: within a row by the parity of the new column, at its end by the new row. -/
theorem nextAdvancesTheRaster : Obligations.NextAdvancesTheRaster := by
  intro s n c hn hc
  refine ⟨fun hw heven => ?_, fun hw hodd => ?_, fun r hr hw hmore => ?_, fun r hr hw hlast => ?_⟩
  · exact execNext_eq_next.2 ⟨n, c, hn, hc, .inl ⟨hw, by rw [if_pos (bit0Clear_of_even heven)]⟩⟩
  · exact execNext_eq_next.2 ⟨n, c, hn, hc, .inl ⟨hw, by rw [if_neg (not_bit0Clear_of_odd hodd)]⟩⟩
  · exact execNext_eq_next.2 ⟨n, c, hn, hc, .inr ⟨hw, r, hr, by rw [if_neg hmore]⟩⟩
  · exact execNext_eq_next.2 ⟨n, c, hn, hc, .inr ⟨hw, r, hr, by rw [if_pos hlast]⟩⟩

/-! The chroma pair (R100, R106). -/

/-- Neither half of the chroma pair changes. -/
def State.SameChromaPair (s t : State) : Prop := t.ub = s.ub ∧ t.vb = s.vb

theorem State.SameChromaPair.refl (s : State) : s.SameChromaPair s := ⟨rfl, rfl⟩

/-- Of the operations `PHASE` names outside `IDLE`, all but `LDVU` and `ROWSTART` keep the chroma pair. -/
theorem exec_of_busy_keeps_chroma {s t : State} {i : Instr} {p : PhaseCode} (hp : p ≠ Phase.idle)
    (hc : encode i = .phase p) (hldvu : i ≠ .ldvu) (hrow : i ≠ .rowstart) (h : exec i s = .next t) :
    s.SameChromaPair t := by
  have same := State.SameChromaPair.refl s
  cases i with
  | idle => exact absurd (Code.phase.inj hc).symm hp
  | convert => cases hc
  | ldvu => exact absurd rfl hldvu
  | rowstart => exact absurd rfl hrow
  | qinfo | chkfmt | chkdim | lockdst | pinsrc | chklen =>
    cases h
    split <;> exact same
  | framestart | unpin | unlock => cases h; exact same
  | ldy =>
    obtain ⟨_, -, -, -, -, rfl⟩ := execLdy_eq_next.1 h
    exact same
  | matrix =>
    obtain ⟨-, _, _, _, -, -, -, rfl⟩ := execMatrix_eq_next.1 h
    exact same
  | clamp =>
    obtain ⟨_, _, _, -, -, -, rfl⟩ := execClamp_eq_next.1 h
    exact same
  | pack =>
    obtain ⟨_, _, _, -, -, -, rfl⟩ := execPack_eq_next.1 h
    exact same
  | stpix =>
    obtain ⟨_, _, -, -, -, -, -, rfl⟩ := execStpix_eq_next.1 h
    exact same
  | next =>
    obtain ⟨_, _, -, -, ⟨-, rfl⟩ | ⟨-, _, -, rfl⟩⟩ := execNext_eq_next.1 h <;> exact same
  | ret =>
    obtain ⟨-, rfl⟩ := execRet_eq_next.1 h
    exact same

/-- After an even column of an even width comes the odd column of the same block, and its pixel begins at `LDY`: a row
of an even width never ends on an even column (R100, R105, R106). -/
theorem execNext_phase_of_even_col {s t : State} {c : Nat} (hc : s.col = some c) (heven : Even c)
    (hwidth : Even s.width) (h : execNext s = .next t) : t.phase = Phase.ldy := by
  have hodd : Odd (c + 1) := heven.add_one
  obtain ⟨n, c', -, hc', hadv⟩ := execNext_eq_next.1 h
  obtain rfl : c = c' := Option.some.inj (hc.symm.trans hc')
  rcases hadv with ⟨-, rfl⟩ | ⟨hend, -⟩
  · exact if_neg (not_bit0Clear_of_odd hodd)
  · exact absurd (hend ▸ hwidth) (Nat.not_even_iff_odd.2 hodd)

/-- Settles O41: the first half by what each operation keeps, the second by the choice `NEXT` makes. -/
theorem chromaPairIsReusedOnOddColumns : Obligations.ChromaPairIsReusedOnOddColumns := by
  intro s t hp h
  obtain ⟨i, hi, hexec⟩ := step_eq_next_of_busy hp h
  refine ⟨fun hldvu hrow => exec_of_busy_keeps_chroma hp hi ?_ ?_ hexec, fun c hnext hc heven hwidth _ => ?_⟩
  · rintro rfl
    exact hldvu (Code.phase.inj hi).symm
  · rintro rfl
    exact hrow (Code.phase.inj hi).symm
  · have hrun : step s = execNext s := step_of_phase (i := .next) hp (by rw [hnext]; rfl)
    exact execNext_phase_of_even_col hc heven hwidth (hrun.symm.trans h)

end Sys2Proof.Machine
end

section
/-! PROOFS. Family 42, the colour matrix and the clamp (R116 to R120): what `MATRIX` and `CLAMP` put in their registers,
the order the clamped sums keep, and the grey pixel of a neutral chroma pair. -/

namespace Sys2Proof.Machine

/-! The three sums with the spec's coefficients and the signs of D9 (R116; log 15). -/

theorem matrixR_eq (y v : Int) : matrixR y v = 1192 * y + 1634 * v := rfl

theorem matrixG_eq (y u v : Int) : matrixG y u v = 1192 * y - 833 * v - 400 * u := rfl

theorem matrixB_eq (y u : Int) : matrixB y u = 1192 * y + 2066 * u := rfl

/-- Settles O23: each sum fits its register, so the register holds it exactly. -/
theorem matrixIsExact : Obligations.MatrixIsExact := fun _ y u v hvalid hy hu hv =>
  ⟨_, _, _, (matrixR_exact y v).trans (matrixR_eq _ _), (matrixG_exact y u v).trans (matrixG_eq _ _ _),
    (matrixB_exact y u).trans (matrixB_eq _ _), execMatrix_eq_next.2 ⟨hvalid, y, u, v, hy, hu, hv, rfl⟩⟩

/-! The clamp (R7, R117). -/

/-- The clamp case by case, as R117 writes it. -/
theorem clampChannel_eq_ite (x : Int) :
    clampChannel x = if x < 0 then 0 else if 262143 < x then 262143 else x := by
  simp only [clampChannel, Config.clampMax]
  split_ifs <;> omega

theorem clampChannel_mono : Monotone clampChannel := fun _ _ h =>
  min_le_min_right _ (max_le_max_right _ h)

/-- Settles O25: a clamped value fits its register, so the register holds R117's case. -/
theorem clampBoundsEachChannel : Obligations.ClampBoundsEachChannel := fun _ r g b hr hg hb =>
  have holds (x : Sum) := (clampChannel_exact x.toInt).trans (clampChannel_eq_ite x.toInt)
  ⟨_, _, _, holds r, holds g, holds b, execClamp_eq_next.2 ⟨r, g, b, hr, hg, hb, rfl⟩⟩

/-! The order in luma (R120): its coefficient is the same positive number in each sum. -/

theorem matrixR_mono_luma {y y' : Int} (v : Int) (h : y ≤ y') : matrixR y v ≤ matrixR y' v := by
  rw [matrixR_eq, matrixR_eq]
  omega

theorem matrixG_mono_luma {y y' : Int} (u v : Int) (h : y ≤ y') : matrixG y u v ≤ matrixG y' u v := by
  rw [matrixG_eq, matrixG_eq]
  omega

theorem matrixB_mono_luma {y y' : Int} (u : Int) (h : y ≤ y') : matrixB y u ≤ matrixB y' u := by
  rw [matrixB_eq, matrixB_eq]
  omega

/-- Settles O26: each component is the clamp after a sum, both monotone; the four values are computed. -/
theorem matrixClampIsMonotone : Obligations.MatrixClampIsMonotone := by
  refine ⟨fun y y' u v h => ⟨?red, ?green, ?blue⟩, by decide⟩
  case red => exact clampChannel_mono (matrixR_mono_luma v h)
  case green => exact clampChannel_mono (matrixG_mono_luma u v h)
  case blue => exact clampChannel_mono (matrixB_mono_luma u h)

/-! The bytes of a packed word (R63, R126, R129): its lanes from red up, then alpha. -/

/-- A lane is the channel's top eight bits, truncated (R126). -/
theorem lane_toNat (k : Channel) : (lane k).toNat = k.toNat / 1024 := by
  have := k.isLt
  rw [lane, BitVec.extractLsb'_toNat, Nat.shiftRight_eq_div_pow]
  omega

theorem pixelByte_packWord_red (rk gk bk : Channel) : pixelByte (packWord rk gk bk) 0 = lane rk :=
  BitVec.extractLsb'_append_eq_right

theorem pixelByte_packWord_green (rk gk bk : Channel) : pixelByte (packWord rk gk bk) 1 = lane gk := by
  rw [pixelByte, packWord, BitVec.extractLsb'_append_eq_of_le (by decide)]
  exact BitVec.extractLsb'_append_eq_right

theorem pixelByte_packWord_blue (rk gk bk : Channel) : pixelByte (packWord rk gk bk) 2 = lane bk := by
  rw [pixelByte, packWord, BitVec.extractLsb'_append_eq_of_le (by decide),
    BitVec.extractLsb'_append_eq_of_le (by decide)]
  exact BitVec.extractLsb'_append_eq_right

theorem pixelByte_packWord_alpha (rk gk bk : Channel) : pixelByte (packWord rk gk bk) 3 = Config.alpha := by
  rw [pixelByte, packWord, BitVec.extractLsb'_append_eq_of_le (by decide),
    BitVec.extractLsb'_append_eq_of_le (by decide)]
  exact BitVec.extractLsb'_append_eq_left

/-! Neutral chroma (R116, R126, R130): with both chroma operands 0 the three sums are one. -/

theorem matrixClamp_neutral (y : Int) :
    matrixClamp y 0 0 = (clampChannel (1192 * y), clampChannel (1192 * y), clampChannel (1192 * y)) := by
  simp only [matrixClamp, matrixR_eq, matrixG_eq, matrixB_eq, Int.mul_zero, Int.add_zero, Int.sub_zero]

/-- What all three channels hold for a luma byte with neutral chroma (R116, R117). -/
def greyChannel (y : Byte) : Channel := BitVec.ofInt 18 (clampChannel (1192 * max ((y.toNat : Int) - 16) 0))

theorem greyChannel_exact (y : Byte) :
    ((greyChannel y).toNat : Int) = clampChannel (1192 * max ((y.toNat : Int) - 16) 0) := clampChannel_exact _

theorem greyChannel_toNat (y : Byte) : (greyChannel y).toNat = min (1192 * (y.toNat - 16)) 262143 := by
  have hexact := greyChannel_exact y
  rw [clampChannel, Config.clampMax] at hexact
  omega

/-- With neutral chroma the pixel function packs one channel three times (R130). -/
theorem pixel_neutral (y : Byte) :
    pixel y 128 128 = packWord (greyChannel y) (greyChannel y) (greyChannel y) := by
  have hclamp := matrixClamp_neutral (max ((y.toNat : Int) - 16) 0)
  rw [← greyChannel_exact] at hclamp
  exact (packWord_eq_pixel y 128 128 _ _ _ (congrArg (·.1) hclamp).symm (congrArg (·.2.1) hclamp).symm
    (congrArg (·.2.2) hclamp).symm).symm

/-- Settles O30: the three lanes of the grey pixel hold one channel, and alpha is the packer's constant. -/
theorem neutralChromaGivesGrey : Obligations.NeutralChromaGivesGrey := by
  intro y
  rw [pixel_neutral, pixelByte_packWord_red, pixelByte_packWord_green, pixelByte_packWord_blue,
    pixelByte_packWord_alpha, lane_toNat, greyChannel_toNat]
  refine ⟨rfl, rfl, rfl, ?_⟩
  omega

end Sys2Proof.Machine
end

section
/-! PROOFS. Family 43, the packer and the pixel store (R126 to R130): the packed word as a number and as the OR of its
lanes, the shift form, the datapath as the pixel function, and the one slot that `STPIX` changes. -/

namespace Sys2Proof.Machine

/-! The packed word as a number (R63, R126, R129). -/

theorem toNat_append_byte {n : Nat} (x : BitVec n) (b : Byte) : (x ++ b).toNat = x.toNat * 2 ^ 8 + b.toNat := by
  rw [BitVec.toNat_append, ← Nat.shiftLeft_add_eq_or_of_lt b.isLt, Nat.shiftLeft_eq]

theorem packWord_toNat (rk gk bk : Channel) :
    (packWord rk gk bk).toNat =
      255 * 2 ^ 24 + bk.toNat / 2 ^ 10 * 2 ^ 16 + gk.toNat / 2 ^ 10 * 2 ^ 8 + rk.toNat / 2 ^ 10 := by
  have halpha : Config.alpha.toNat = 255 := rfl
  rw [packWord, toNat_append_byte, toNat_append_byte, toNat_append_byte, halpha, lane_toNat, lane_toNat, lane_toNat]
  omega

/-- Settles O27: the word `PACK` leaves in `PIX` is read byte by byte as a number. -/
theorem packKeepsTheTopEightBits : Obligations.PackKeepsTheTopEightBits := fun _ r g b hr hg hb =>
  ⟨packWord r g b, packWord_toNat r g b, execPack_eq_next.2 ⟨r, g, b, hr, hg, hb, rfl⟩⟩

/-! The shift-and-mask form (R127): each shift puts its channel's lane on a byte, and the mask keeps that byte alone. -/

theorem lowByte_getLsbD (i : Nat) : (0xFF : Pixel).getLsbD i = decide (i < 8) := by
  have hones : (0xFF : Pixel) = (BitVec.allOnes 8).setWidth 32 := rfl
  rw [hones, BitVec.getLsbD_setWidth, BitVec.getLsbD_allOnes, ← Bool.decide_and]
  exact decide_eq_decide.2 (by omega)

/-- The mask of byte `k` keeps that byte in its place and clears the rest. -/
theorem and_byteMask (w : Pixel) (k : Nat) :
    w &&& ((0xFF : Pixel) <<< (8 * k)) = (pixelByte w k).setWidth 32 <<< (8 * k) := by
  apply BitVec.eq_of_getLsbD_eq
  intro i hi
  rw [BitVec.getLsbD_and, BitVec.getLsbD_shiftLeft, BitVec.getLsbD_shiftLeft, lowByte_getLsbD]
  by_cases hk : i < 8 * k
  · simp only [hk, decide_true, Bool.not_true, Bool.and_false, Bool.false_and]
  · have hadd : 8 * k + (i - 8 * k) = i := by omega
    have hin : i - 8 * k < 32 := by omega
    simp [pixelByte, hk, hi, hin, hadd, Bool.and_comm]

/-- A right shift that moves bit 10 to the start of byte `k` puts the lane there: by 10 for red, by 2 for green. -/
theorem pixelByte_ushiftRight (c : Channel) {n k : Nat} (h : n + 8 * k = 10) :
    pixelByte (c.setWidth 32 >>> n) k = lane c := by
  apply BitVec.eq_of_getLsbD_eq
  intro i hi
  have hbit : n + (8 * k + i) = 10 + i := by omega
  have hin : 10 + i < 32 := by omega
  simp [pixelByte, lane, hbit, hin]

/-- A left shift that moves bit 10 to the start of byte `k` puts the lane there: by 6 for blue. -/
theorem pixelByte_shiftLeft (c : Channel) {n k : Nat} (hk : k < 4) (h : 8 * k = n + 10) :
    pixelByte (c.setWidth 32 <<< n) k = lane c := by
  apply BitVec.eq_of_getLsbD_eq
  intro i hi
  have hbit : 8 * k + i - n = 10 + i := by omega
  have hin : 8 * k + i < 32 := by omega
  have hn : ¬ 8 * k + i < n := by omega
  simp [pixelByte, lane, hbit, hin, hn]

/-- The packed word as alpha and the three lanes, each shifted to its byte (R63, R126). -/
theorem packWord_eq_lanes (rk gk bk : Channel) :
    packWord rk gk bk = 0xFF000000 ||| (lane bk).setWidth 32 <<< 16 ||| (lane gk).setWidth 32 <<< 8 |||
      (lane rk).setWidth 32 := by
  have hor := BitVec.setWidth_append_append_append_eq_shiftLeft_setWidth_or (b := Config.alpha) (b' := lane bk)
    (b'' := lane gk) (b''' := lane rk) (w'''' := 32)
  rw [BitVec.setWidth_eq] at hor
  exact hor

/-- Settles O28: each masked shift is one lane in its byte, and the word is the OR of its lanes. -/
theorem packEqualsTheShiftForm : Obligations.PackEqualsTheShiftForm := by
  intro rk gk bk
  have blue : (bk.setWidth 32 <<< 6) &&& 0x00FF0000 = (lane bk).setWidth 32 <<< 16 :=
    (and_byteMask _ 2).trans (by rw [pixelByte_shiftLeft bk (by decide) rfl])
  have green : (gk.setWidth 32 >>> 2) &&& 0x0000FF00 = (lane gk).setWidth 32 <<< 8 :=
    (and_byteMask _ 1).trans (by rw [pixelByte_ushiftRight gk rfl])
  have red : (rk.setWidth 32 >>> 10) &&& 0x000000FF = (lane rk).setWidth 32 :=
    (and_byteMask _ 0).trans (by rw [pixelByte_ushiftRight rk rfl, Nat.mul_zero, BitVec.shiftLeft_zero])
  rw [packShift, blue, green, red, packWord_eq_lanes]

/-! The datapath (R130). -/

/-- Settles O29: the three operations follow one another, and since the sums and the clamped values fit their registers,
each channel holds its component of `matrix_clamp` on the three bytes' operands. -/
theorem datapathComputesThePixelFunction : Obligations.DatapathComputesThePixelFunction := by
  intro s y u v hvalid hy hu hv
  refine ⟨_, _, _, execMatrix_eq_next.2 ⟨hvalid, _, _, _, hy, hu, hv, rfl⟩,
    execClamp_eq_next.2 ⟨_, _, _, rfl, rfl, rfl, rfl⟩, execPack_eq_next.2 ⟨_, _, _, rfl, rfl, rfl, rfl⟩,
    congrArg some (packWord_eq_pixel y u v _ _ _ ?red ?green ?blue), rfl⟩
  case red =>
    rw [clampChannel_exact, matrixR_exact, lumaOperand_toNat, chromaOperand_toInt, matrixClamp]
  case green =>
    rw [clampChannel_exact, matrixG_exact, lumaOperand_toNat, chromaOperand_toInt, chromaOperand_toInt, matrixClamp]
  case blue =>
    rw [clampChannel_exact, matrixB_exact, lumaOperand_toNat, chromaOperand_toInt, matrixClamp]

/-! The store (R47, R48, R128). -/

theorem Memory.read_writeSlot_byte (m : Memory) (p : Nat) (w : Pixel) {k : Nat} (hk : k < 4) :
    (m.writeSlot p w).read (slotOffset p + k) = pixelByte w k := by
  rw [Memory.read_writeSlot, if_pos (by omega), Nat.add_sub_cancel_left]

/-- Settles O31: the destination after the store is the one with slot `yIndex` replaced. -/
theorem stpixStoresOneSlot : Obligations.StpixStoresOneSlot := by
  intro s w n hw hn hheld hlen hsize
  have hbyte {k : Nat} (hk : k < 4) := s.dst.read_writeSlot_byte n w hk
  refine ⟨s.dst.writeSlot n w, execStpix_eq_next.2 ⟨w, n, hw, hn, hheld, hlen, hsize, rfl⟩,
    hbyte (k := 0) (by decide), hbyte (k := 1) (by decide), hbyte (k := 2) (by decide), hbyte (k := 3) (by decide),
    ?slot, ?otherBytes, ?otherSlots⟩
  case slot => rw [Memory.slot_writeSlot, if_pos rfl]
  case otherBytes =>
    intro a ha
    exact (s.dst.read_writeSlot n a w).trans (if_neg ha)
  case otherSlots =>
    intro p hp
    rw [Memory.slot_writeSlot, if_neg hp]

end Sys2Proof.Machine
end

section
/-! PROOFS. The canonical form of the two spaces along a step (20_memory.md section 1; log 6): while a call runs no
operation writes the source and one writes a slot of the destination; in `IDLE` a host move attaches a buffer in the
canonical form or leaves both spaces as they are. -/

namespace Sys2Proof.Machine

/-- Outside `IDLE` the source stays canonical: it is the host's, and no operation writes it (R40). -/
theorem State.wf_src_of_busy {s t : State} (hp : s.phase ≠ Phase.idle) (h : step s = .next t)
    (hsrc : Memory.wf s.src) : Memory.wf t.src := by
  obtain ⟨-, -, -, -, -, -, heq, -⟩ := descriptorIsConstantDuringACall s t hp h
  rwa [heq]

/-- In `IDLE` both spaces stay canonical: `START` and reset do not touch them (R81, R155), and any other move of the
host keeps the form. -/
theorem State.wf_spaces_of_idle {s t : State} (hp : s.phase = Phase.idle) (h : step s = .next t)
    (hsrc : Memory.wf s.src) (hdst : Memory.wf s.dst) : Memory.wf t.src ∧ Memory.wf t.dst := by
  rcases State.step_idle_cases hp h with ⟨ms, -, -, rfl⟩ | ⟨ms, -, rfl⟩ | ⟨-, -, -, -, hkeepSrc, hkeepDst⟩
  · exact ⟨hsrc, hdst⟩
  · exact ⟨hsrc, hdst⟩
  · exact ⟨hkeepSrc hsrc, hkeepDst hdst⟩

/-- Settles O42: in `IDLE` by what each host move does to the spaces, outside it by who may write each space. -/
theorem stepKeepsTheSpacesCanonical : Obligations.StepKeepsTheSpacesCanonical := by
  intro s t hsrc hdst h
  by_cases hp : s.phase = Phase.idle
  · exact State.wf_spaces_of_idle hp h hsrc hdst
  · exact ⟨State.wf_src_of_busy hp h hsrc, State.wf_dst_of_busy hp h hdst⟩

end Sys2Proof.Machine
end
